-- ==== Sys2Proof/Word.lean ====
section
/-! DEFINITION. The machine's words: symbols, node indices, command words, lengths (00_scope R8, R10). -/

namespace Sys2Proof

/-- A symbol: SYM_W = 8 bits, unsigned (R8, R13). -/
abbrev Symbol := BitVec 8

/-- An index into the tree store: IDX_W = 9 bits (R8). -/
abbrev NodeIndex := BitVec 9

/-- The word written to CSR register 7 (R70). -/
abbrev CommandWord := BitVec 32

/-- A length register: LEN_W = 32 bits (R8). -/
abbrev Length := BitVec 32

/-- A binary digit of a code or of the bitstream: false is the digit 0, true the digit 1 (R13). -/
abbrev Digit := Bool

/-- NIL, the index that means "no node" (R8). -/
abbrev NIL : NodeIndex := 511#9

end Sys2Proof
end

