-- ==== Sys2Proof/Config.lean ====
section
/-! DEFINITION. What is fixed for one chip: the OPEN parameters of 00_scope R8 as data, the fixed
parameters as numbers, and the free values (opaque: nothing can be proved about what they are). -/

namespace Sys2Proof

/-- The OPEN parameters of R8: W_W, L_MAX, B_MAX. The model takes them as data, so that a statement
over every state holds for every choice of them (notes/assumptions/2.md; DESIGN CHOICE, safe). -/
structure Params where
  /-- W_W: the width in bits of a count and of a node weight. -/
  weightWidth : Nat
  /-- L_MAX: the capacity of SI and of SO in symbols. -/
  symbolCapacity : Nat
  /-- B_MAX: the capacity of BS in bits. -/
  bitCapacity : Nat
  deriving DecidableEq, Repr

namespace Config

/-- REFCFG of R9: W_W = 32, L_MAX = 4096, B_MAX = 32768. -/
def reference : Params := { weightWidth := 32, symbolCapacity := 4096, bitCapacity := 32768 }

/-- N_MAX, the largest number of distinct symbols: fixed 256 (R8). -/
def symbolCount : Nat := 256

/-- NODE_MAX, the number of entries of TM: fixed 511 (R8). -/
def nodeCapacity : Nat := 511

/-- CODE_MAX, the largest number of digits of a code: fixed 255 (R8). -/
def codeCapacity : Nat := 255

/-- The n-th free value of CSR.ROOT: what the register holds once its tree is gone is not defined
(10_state R23, R31), and nothing may be proved of it (notes/assumptions/6.md; DESIGN CHOICE, safe). -/
opaque freeRoot : Nat → NodeIndex

/-- The n-th free value of CSR.NNODES, as `freeRoot` (R23, R31; notes/assumptions/6.md). -/
opaque freeNodeCount : Nat → BitVec 9

end Config

end Sys2Proof
end

