-- ==== Sys2Proof/Syntax.lean ====
section
/-! DEFINITION. The commands (one constructor per row of spec/opcode_table.json), the spaces and registers of
the host port, and the events the outside world can cause (30_encoding R70 to R82, 70_reset R195). -/

namespace Sys2Proof

/-- The five commands of R71. No command has an operand field or an immediate (R73). -/
inductive Instr where
  /-- BUILD, the tree builder HTB (R98). -/
  | build
  /-- GEN, the code table generator CTG (R109). -/
  | gen
  /-- ENC, the encoder (R118). -/
  | enc
  /-- DEC, the decoder (R130). -/
  | dec
  /-- END, the end of a session (R140). -/
  | endSession
  deriving DecidableEq, Repr

/-- The seven spaces of the host port (20_memory R51). Space number 7 is none of them. -/
inductive Space where
  | csr | ft | tm | ct | si | bs | so
  deriving DecidableEq, Repr

/-- The eight registers of the space CSR (R76). -/
inductive Csr where
  | status | flags | root | nnodes | siLen | bsLen | soLen | cmd
  deriving DecidableEq, Repr

/-- The request of one host transaction, field for field (R82). -/
structure Request where
  /-- `we`: true is a write, false a read. -/
  we : Bool
  /-- `space`: three bits, R77. -/
  space : BitVec 3
  /-- `index`: an entry index or a register number. -/
  index : BitVec 32
  /-- `wdata`: the entry word written, a number whose low W_E bits are the word (R82). -/
  wdata : Nat
  deriving DecidableEq, Repr

/-- What the outside world can do to the machine: a host transaction (R145) or reset (R195). -/
inductive HostEvent where
  | transaction (r : Request)
  | reset
  deriving DecidableEq, Repr

end Sys2Proof
end

