-- ==== Sys2Proof/Decode.lean ====
section
/-! DEFINITION. Decoding and encoding of the command word (30_encoding R70 to R72), of space numbers (R77) and
of register numbers (R76); the sizes and widths of the spaces (20_memory R51). Decoding is total and
refuses by name. -/

namespace Sys2Proof

/-- Why a command word is illegal (R72). Both cases are answered alike, with IllegalCommand. -/
inductive IllegalWord where
  /-- Some bit of the field `rsvd`, bits 31:8, is set. -/
  | reservedBits
  /-- `rsvd` is 0 and `op` is none of 1 to 5. -/
  | unassignedOpcode (op : BitVec 8)
  deriving DecidableEq, Repr

/-- One row of the opcode map of R71. -/
structure OpcodeRow where
  mask : CommandWord
  pattern : CommandWord
  instr : Instr
  deriving DecidableEq, Repr

/-- The opcode map of R71: the word is decoded by comparing all 32 bits. -/
def opcodeTable : List OpcodeRow :=
  [ { mask := 0xFFFFFFFF#32, pattern := 0x00000001#32, instr := .build },
    { mask := 0xFFFFFFFF#32, pattern := 0x00000002#32, instr := .gen },
    { mask := 0xFFFFFFFF#32, pattern := 0x00000003#32, instr := .enc },
    { mask := 0xFFFFFFFF#32, pattern := 0x00000004#32, instr := .dec },
    { mask := 0xFFFFFFFF#32, pattern := 0x00000005#32, instr := .endSession } ]

/-- A row matches a word when the word, masked, is the row's pattern. -/
def OpcodeRow.matchesWord (r : OpcodeRow) (w : CommandWord) : Bool := w &&& r.mask == r.pattern

/-- The name under which an illegal word is refused (R72). -/
def illegalWord (w : CommandWord) : IllegalWord :=
  if w.extractLsb' 8 24 = 0#24 then .unassignedOpcode (w.extractLsb' 0 8) else .reservedBits

/-- The decoder: total on every 32-bit word (R71, R72). -/
def decode (w : CommandWord) : Except IllegalWord Instr :=
  match opcodeTable.find? (·.matchesWord w) with
  | some r => .ok r.instr
  | none => .error (illegalWord w)

/-- The encoder, from the table of R71: `op` in bits 7:0, `rsvd` = 0 in bits 31:8 (R70). -/
def encode : Instr → CommandWord
  | .build => 0#24 ++ 0x01#8
  | .gen => 0#24 ++ 0x02#8
  | .enc => 0#24 ++ 0x03#8
  | .dec => 0#24 ++ 0x04#8
  | .endSession => 0#24 ++ 0x05#8

/-- The instruction the decoder reads from an instruction whose bits are w, of which nbits count. A
command is one word of 32 bits (R85): a number that does not fit one is no command. -/
def decodeTableWord (nbits w : Nat) : Option Instr :=
  if w % 2 ^ nbits < 2 ^ 32 then
    match decode (BitVec.ofNat 32 (w % 2 ^ nbits)) with
    | .ok i => some i
    | .error _ => none
  else none

/-- The space a space number names; 7 is reserved (R51, R77). -/
def Space.ofNumber (n : BitVec 3) : Option Space :=
  match n.toNat with
  | 0 => some .csr
  | 1 => some .ft
  | 2 => some .tm
  | 3 => some .ct
  | 4 => some .si
  | 5 => some .bs
  | 6 => some .so
  | _ => none

/-- The number of a space (R51, R77). -/
def Space.number : Space → BitVec 3
  | .csr => 0#3
  | .ft => 1#3
  | .tm => 2#3
  | .ct => 3#3
  | .si => 4#3
  | .bs => 5#3
  | .so => 6#3

/-- The register a register number names; numbers above 7 do not exist (R76). -/
def Csr.ofNumber : Nat → Option Csr
  | 0 => some .status
  | 1 => some .flags
  | 2 => some .root
  | 3 => some .nnodes
  | 4 => some .siLen
  | 5 => some .bsLen
  | 6 => some .soLen
  | 7 => some .cmd
  | _ => none

/-- The number of a register (R76). -/
def Csr.number : Csr → BitVec 32
  | .status => 0#32
  | .flags => 1#32
  | .root => 2#32
  | .nnodes => 3#32
  | .siLen => 4#32
  | .bsLen => 5#32
  | .soLen => 6#32
  | .cmd => 7#32

/-- How many entries a space has: its valid indices are 0 to this number less 1 (R51). -/
def Space.entries (p : Params) : Space → Nat
  | .csr => 8
  | .ft => Config.symbolCount
  | .tm => Config.nodeCapacity
  | .ct => Config.symbolCount
  | .si => p.symbolCapacity
  | .bs => p.bitCapacity
  | .so => p.symbolCapacity

/-- W_E, the width in bits of one entry word of a space (R51). -/
def Space.entryWidth (p : Params) : Space → Nat
  | .csr => 32
  | .ft => p.weightWidth + 1
  | .tm => p.weightWidth + 27
  | .ct => 264
  | .si => 8
  | .bs => 1
  | .so => 8

/-- The host transaction that issues a command: a write of its word to CSR register 7 (R83, R144). -/
def Request.issueWord (w : Nat) : Request :=
  { we := true, space := Space.csr.number, index := Csr.cmd.number, wdata := w }

end Sys2Proof
end

