-- ==== Sys2Proof/WellFormed.lean ====
section
/-! DEFINITION. Well-formedness: of the parameters (00_scope R8), of a command (30_encoding R70, R73) and of a
host request (R82). -/

namespace Sys2Proof

/-- The constraints of R8 on the OPEN parameters: W_W ≥ 1, 1 ≤ L_MAX < 2^32, 1 ≤ B_MAX < 2^32. -/
def Params.wellFormed (p : Params) : Bool :=
  decide (1 ≤ p.weightWidth) &&
  (decide (1 ≤ p.symbolCapacity) && decide (p.symbolCapacity < 2 ^ 32)) &&
  (decide (1 ≤ p.bitCapacity) && decide (p.bitCapacity < 2 ^ 32))

/-- A command has no field that could be out of range (R73): it is well formed when its word has
`rsvd` = 0 (R70), which the encoder gives every constructor. -/
def Instr.wellFormed (i : Instr) : Bool := (encode i).extractLsb' 8 24 == 0#24

/-- `wdata` fits the W_E bits of the addressed space (R82); a read carries none that matters, and space
7 has no entry word. -/
def Request.wellFormed (p : Params) (r : Request) : Bool :=
  match Space.ofNumber r.space with
  | some sp => !r.we || decide (r.wdata < 2 ^ sp.entryWidth p)
  | none => !r.we || r.wdata == 0

end Sys2Proof
end

