-- ==== Sys2Proof/Machine/State.lean ====
section
/-! DEFINITION. The state of one HUFFCORE (10_state R20), as plain data, the statuses, the reasons to stop, and
the state after reset (R36). -/

namespace Sys2Proof.Machine

/-- A store: its entries that hold a value, each with its index, in strictly rising order of the index
(`Store.wf` in Safety.lean). What an index that is not listed reads as, each store's field says. -/
abbrev Store (α : Type) := List (Nat × α)

/-- The status codes 0 to 7, in this order (30_encoding R74). -/
inductive Status where
  | ok | invalidInput | lookupError | malformedStream | nullTraversal | capacityExceeded
  | sequenceError | illegalCommand
  deriving DecidableEq, Repr

/-- `kind` of a tree store entry: 0 leaf, 1 internal (R22). -/
inductive NodeKind where
  | leaf | internal
  deriving DecidableEq, Repr

/-- One entry of TM (R20, R22). The weight is an unsigned W_W-bit number. -/
structure TreeNode where
  kind : NodeKind
  sym : Symbol
  weight : Nat
  left : NodeIndex
  right : NodeIndex
  deriving DecidableEq, Repr

/-- A valid entry of CT (R20, R24): bit i of `code` is the digit code[i]. An entry with valid = 0 is not
listed. -/
structure CodeEntry where
  len : BitVec 8
  code : BitVec 255
  deriving DecidableEq, Repr

/-- One field of a word the host reads: its width, and its value or no value (R142). -/
structure Field where
  width : Nat
  value : Option Nat
  deriving DecidableEq, Repr

/-- The response of a host transaction (R82). `rdata` is the word's fields, the most significant first;
no field at all where the rules give `rdata` no meaning. -/
structure Response where
  err : Bool
  rdata : List Field
  deriving DecidableEq, Repr

/-- The state of one HUFFCORE: R20, and the model's own fields `params`, `draws`, `pending`,
`response` (notes/assumptions/1.md, 2.md, 6.md). -/
structure State where
  /-- The OPEN parameters of this chip (R8). No step changes them (R35). -/
  params : Params
  /-- STATUS (R28). -/
  status : Status
  /-- FLAGS.TREE_VALID (R29). -/
  treeValid : Bool
  /-- FLAGS.CT_VALID (R29). -/
  ctValid : Bool
  /-- ROOT (R23): holds no value while TREE_VALID = 0. -/
  root : NodeIndex
  /-- NNODES (R23): holds no value while TREE_VALID = 0. -/
  nnodes : BitVec 9
  /-- SI_LEN (R25). -/
  siLen : Length
  /-- BS_LEN (R26). -/
  bsLen : Length
  /-- SO_LEN (R27). -/
  soLen : Length
  /-- FT (R21): the counts of the present symbols. A symbol not listed has present = 0, count without value. -/
  ft : Store Nat
  /-- TM (R22). An index not listed holds no value. -/
  tm : Store TreeNode
  /-- CT (R24). While CT_VALID = 1 a symbol not listed has valid = 0; while CT_VALID = 0 no entry holds a value. -/
  ct : Store CodeEntry
  /-- SI (R25). A position not listed holds no value. -/
  si : Store Symbol
  /-- BS (R26). A position not listed holds no value. -/
  bs : Store Digit
  /-- SO (R27). A position not listed holds no value. -/
  so : Store Symbol
  /-- How many free values have been drawn (notes/assumptions/6.md). -/
  draws : Nat
  /-- The host's events still to come, the next one first (R145; notes/assumptions/1.md). -/
  pending : List HostEvent
  /-- What the last transaction answered, if there was one since reset (R82). -/
  response : Option Response
  deriving DecidableEq, Repr

/-- Why the machine stops with a fault. Raised only in states that no run reaches. -/
inductive Fault where
  /-- Raised by GEN when the walk of R109 goes below depth CODE_MAX = 255: no tree BUILD makes is that
  deep (40_tree_builder R100 (d)). Safe: the model stops where the spec gives no code. -/
  | treeTooDeep
  deriving DecidableEq, Repr

/-- Why a step has no meaning. -/
inductive Refusal where
  /-- Raised by exec's arms for an instruction that has no meaning yet. Safe: nothing can be claimed of it. -/
  | notModelled (mnemonic : String)
  /-- Raised by ENC on reading SI[i], and by DEC on reading BS[i], where the entry holds no value: the
  spec defines no result and asks for a refusal (70_reset R206, 93 U4). Also raised by GEN and DEC on
  an entry of TM without value, which no run reaches (10_state R30). Safe: the model stops where the
  hardware goes on with whatever bits the entry holds. -/
  | noValue (space : Space) (index : Nat)
  deriving DecidableEq, Repr

/-- How a command ends early: with a status (R12 `raise`), or because it read an entry that holds no
value, or because the tree is deeper than any code. -/
inductive Abort where
  | raise (e : Status)
  | noValue (space : Space) (index : Nat)
  | tooDeep
  deriving DecidableEq, Repr

/-- The reset state of a chip with the given parameters (R36, R195). ROOT and NNODES hold no value; the
0 stored in them is the model's (notes/assumptions/5.md; DESIGN CHOICE, unsafe), and nothing reads it
while TREE_VALID = 0. -/
def State.resetOf (p : Params) : State :=
  { params := p
    status := .ok
    treeValid := false
    ctValid := false
    root := 0#9
    nnodes := 0#9
    siLen := 0#32
    bsLen := 0#32
    soLen := 0#32
    ft := []
    tm := []
    ct := []
    si := []
    bs := []
    so := []
    draws := 0
    pending := []
    response := none }

/-- The machine right after reset, in the reference configuration REFCFG (R9, R36). -/
def State.reset : State := State.resetOf Config.reference

end Sys2Proof.Machine
end

