-- ==== Sys2Proof/Machine/Ops.lean ====
section
/-! DEFINITION. The named operations: the stores' reads and writes, the writes of the commands'
destinations, and the one way a command ends (60_exceptions R183, R184). -/

namespace Sys2Proof.Machine

/-! ## The stores -/

/-- Entry i of a store, if it holds a value (R12 `MemRead`). -/
def Store.read {α : Type} : Store α → Nat → Option α
  | [], _ => none
  | (k, a) :: rest, i => if k = i then some a else Store.read rest i

/-- The store with entry i replaced (R12 `MemWrite`); the list stays in rising order. -/
def Store.write {α : Type} : Store α → Nat → α → Store α
  | [], i, a => [(i, a)]
  | (k, b) :: rest, i, a =>
    if i < k then (i, a) :: (k, b) :: rest
    else if i = k then (i, a) :: rest
    else (k, b) :: Store.write rest i a

/-- The store with entry i made unlisted: it no longer holds a value. -/
def Store.erase {α : Type} (st : Store α) (i : Nat) : Store α := st.filter (fun c => c.1 != i)

/-- The store that lists a sequence from index i upward. -/
def Store.ofListFrom {α : Type} : Nat → List α → Store α
  | _, [] => []
  | i, a :: rest => (i, a) :: Store.ofListFrom (i + 1) rest

/-- The store that lists a sequence from index 0 upward, and nothing else. -/
def Store.ofList {α : Type} (l : List α) : Store α := Store.ofListFrom 0 l

/-- The store after a sequence is written from index 0 upward; the entries above it are kept. -/
def Store.overlay {α : Type} (st : Store α) (l : List α) : Store α :=
  Store.ofList l ++ st.filter (fun c => decide (l.length ≤ c.1))

/-! ## Writes to the state -/

/-- A command ends with status e: STATUS is written (R28, R183). -/
def State.endWith (s : State) (e : Status) : State := { s with status := e }

/-- A transaction is answered (R82). -/
def State.respond (s : State) (r : Response) : State := { s with response := some r }

/-- CT holds no value and CT_VALID is 0 (R29, R31). -/
def State.dropCodes (s : State) : State := { s with ctValid := false, ct := [] }

/-- TM holds no value and TREE_VALID is 0 (R29, R31). What ROOT and NNODES hold then is not defined
(R23): free values (notes/assumptions/6.md). -/
def State.dropTree (s : State) : State :=
  { s with
    treeValid := false
    tm := []
    root := Config.freeRoot s.draws
    nnodes := Config.freeNodeCount s.draws
    draws := s.draws + 1 }

/-- The bitstream is empty and BS holds no value (R184). -/
def State.dropBits (s : State) : State := { s with bsLen := 0#32, bs := [] }

/-- The decoded sequence is empty and SO holds no value (R184). -/
def State.dropOutput (s : State) : State := { s with soLen := 0#32, so := [] }

/-- The tree of a new session (R98): its nodes in TM from 0 upward and nothing above them, NNODES,
ROOT = NNODES − 1, TREE_VALID = 1. -/
def State.putTree (s : State) (nodes : List TreeNode) : State :=
  { s with
    treeValid := true
    tm := Store.ofList nodes
    nnodes := BitVec.ofNat 9 nodes.length
    root := BitVec.ofNat 9 (nodes.length - 1) }

/-- The code table of the tree (R109), CT_VALID = 1. -/
def State.putCodes (s : State) (table : Store CodeEntry) : State :=
  { s with ctValid := true, ct := table }

/-- The bitstream of ENC (R118): BS from 0 upward, and no value above it. -/
def State.putBits (s : State) (out : List Digit) : State :=
  { s with bsLen := BitVec.ofNat 32 out.length, bs := Store.ofList out }

/-- The sequence of DEC (R130): SO from 0 upward; entries above it are not written (R60, R57 (d);
notes/assumptions/9.md). -/
def State.putOutput (s : State) (out : List Symbol) : State :=
  { s with soLen := BitVec.ofNat 32 out.length, so := s.so.overlay out }

/-- The host puts symbol i into FT with a count (R143, R78). -/
def State.writeCount (s : State) (i : Nat) (count : Nat) : State := { s with ft := s.ft.write i count }

/-- The host removes symbol i from FT; its count then holds no value (R143, R78). -/
def State.removeCount (s : State) (i : Nat) : State := { s with ft := s.ft.erase i }

/-- The host writes SI[i] (R143). -/
def State.writeSymbol (s : State) (i : Nat) (a : Symbol) : State := { s with si := s.si.write i a }

/-- The host writes BS[i] (R143). -/
def State.writeDigit (s : State) (i : Nat) (d : Digit) : State := { s with bs := s.bs.write i d }

/-- The host writes SI_LEN (R143). -/
def State.setSymbolLength (s : State) (n : Length) : State := { s with siLen := n }

/-- The host writes BS_LEN (R143). -/
def State.setBitLength (s : State) (n : Length) : State := { s with bsLen := n }

/-! ## How a command ends -/

/-- A command has run: with its result, status 0; or it raised a status, and its destination is emptied
(R183, R184), `emptied` being the state with the destination empty; or it read what holds no value. -/
def finishCommand (emptied : State) : Except Abort State → Host.Outcome State Fault Refusal
  | .ok t => .next (t.endWith .ok)
  | .error (.raise e) => .next (emptied.endWith e)
  | .error (.noValue sp i) => .refused (.noValue sp i)
  | .error .tooDeep => .fault .treeTooDeep

/-- The reset event, from any state (R195): the reset state, for the same chip. The free values drawn so
far stay drawn, and the host's later events are still to come. -/
def State.applyReset (s : State) : State :=
  { State.resetOf s.params with draws := s.draws, pending := s.pending }

end Sys2Proof.Machine
end

