-- ==== Sys2Proof/Machine/Operands.lean ====
section
/-! DEFINITION. The operands of the commands, all implicit (30_encoding R73): the frequency table FT, the
sequence in SI, the bitstream in BS, and the digits of a code in CT (R24, R80). -/

namespace Sys2Proof.Machine

/-- The present entries of FT, in ascending order of the symbol: the scan `for s in 0..255` of R98. -/
def presentEntries (ft : Store Nat) : List (Symbol × Nat) :=
  (List.range Config.symbolCount).filterMap
    (fun s => (ft.read s).map (fun count => (BitVec.ofNat 8 s, count)))

/-- The exact sum of the counts of the present entries, unbounded (R97). -/
def totalCount (entries : List (Symbol × Nat)) : Nat := (entries.map (·.2)).sum

/-- The first n entries of a store, each with a value or without. -/
def Store.slots {α : Type} (st : Store α) (n : Nat) : List (Option α) :=
  (List.range n).map (fun i => st.read i)

/-- The encoder's operand SI[0..SI_LEN − 1] (R25). -/
def State.symbolSlots (s : State) : List (Option Symbol) := s.si.slots s.siLen.toNat

/-- The decoder's operand BS[0..BS_LEN − 1] (R26). -/
def State.bitSlots (s : State) : List (Option Digit) := s.bs.slots s.bsLen.toNat

/-- Digits as a number, the first digit the least significant bit (R80). -/
def digitsValue : List Digit → Nat
  | [] => 0
  | d :: rest => d.toNat + 2 * digitsValue rest

/-- The entry of CT that holds a code: len, and code[i] in bit i of the code field, 0 above (R80, R109). -/
def CodeEntry.ofDigits (p : List Digit) : CodeEntry :=
  { len := BitVec.ofNat 8 p.length, code := BitVec.ofNat 255 (digitsValue p) }

/-- The code an entry of CT holds: code[0], …, code[len − 1] (R24). -/
def CodeEntry.digits (e : CodeEntry) : List Digit :=
  (List.range e.len.toNat).map (fun i => e.code.getLsbD i)

end Sys2Proof.Machine
end

