-- ==== Sys2Proof/Machine/CodeGenerator.lean ====
section
/-! DEFINITION. The code table generator CTG: the command GEN (41_code_table_generator R105 to R112). -/

namespace Sys2Proof.Machine

/-- The walk of R109 from node n with path p: the leaves it reaches, in pre-order, left before right
(R107), each with its path. `fuel` bounds the depth: a path may have at most fuel − 1 more digits. -/
def walk (tm : Store TreeNode) : (fuel : Nat) → NodeIndex → List Digit →
    Except Abort (List (Symbol × List Digit))
  | 0, _, _ => .error .tooDeep
  | fuel + 1, n, p =>
    match tm.read n.toNat with
    | none => .error (.noValue .tm n.toNat)
    | some node =>
      match node.kind with
      | .leaf => .ok [(node.sym, p)]
      | .internal =>
        match (if node.left = NIL then .ok [] else walk tm fuel node.left (p ++ [false])) with
        | .error e => .error e
        | .ok l =>
          match (if node.right = NIL then .ok [] else walk tm fuel node.right (p ++ [true])) with
          | .error e => .error e
          | .ok r => .ok (l ++ r)

/-- The table with the codes written, one entry after another, into a table in which every entry is
invalid (R109). -/
def codeTable (codes : List (Symbol × List Digit)) : Store CodeEntry :=
  codes.foldl (fun table c => Store.write table c.1.toNat (CodeEntry.ofDigits c.2)) []

/-- What GEN computes (R109): SequenceError without a tree, otherwise the table of the paths. -/
def generateTable (s : State) : Except Abort State :=
  if s.treeValid = false then .error (.raise .sequenceError)
  else
    match walk s.tm (Config.codeCapacity + 1) s.root [] with
    | .error e => .error e
    | .ok codes => .ok (s.putCodes (codeTable codes))

/-- GEN (R109). -/
def execGen (s : State) : Host.Outcome State Fault Refusal :=
  finishCommand s.dropCodes (generateTable s)

end Sys2Proof.Machine
end

