-- ==== Sys2Proof/Machine/Decoder.lean ====
section
/-! DEFINITION. The decoder: the command DEC (43_decoder R125 to R135). -/

namespace Sys2Proof.Machine

/-- One step of the state machine of R126 from cursor `cur` on digit b: the new cursor, and the symbol
emitted if the step landed on a leaf. A child that is NIL raises NullTraversal (R128). -/
def decodeStep (tm : Store TreeNode) (root cur : NodeIndex) (b : Digit) :
    Except Abort (NodeIndex × Option Symbol) :=
  match tm.read cur.toNat with
  | none => .error (.noValue .tm cur.toNat)
  | some node =>
    let child := if b then node.right else node.left
    if child = NIL then .error (.raise .nullTraversal)
    else
      match tm.read child.toNat with
      | none => .error (.noValue .tm child.toNat)
      | some c =>
        match c.kind with
        | .leaf => .ok (root, some c.sym)
        | .internal => .ok (child, none)

/-- The loop of R130 over the digits of BS from position j, with the cursor at `cur`: the symbols
emitted. MalformedStream when the digits end with the cursor not at the root (R127). -/
def decodeSlots (tm : Store TreeNode) (root : NodeIndex) :
    (j : Nat) → (cur : NodeIndex) → List (Option Digit) → Except Abort (List Symbol)
  | _, cur, [] => if cur = root then .ok [] else .error (.raise .malformedStream)
  | j, _, none :: _ => .error (.noValue .bs j)
  | j, cur, some b :: rest =>
    match decodeStep tm root cur b with
    | .error e => .error e
    | .ok (cur', emitted) =>
      match decodeSlots tm root (j + 1) cur' rest with
      | .error e => .error e
      | .ok out => .ok (emitted.toList ++ out)

/-- What DEC computes (R130), its errors in the priority order of R185. -/
def decodeInput (s : State) : Except Abort State :=
  if s.treeValid = false then .error (.raise .sequenceError)
  else
    match decodeSlots s.tm s.root 0 s.root s.bitSlots with
    | .error e => .error e
    | .ok out =>
      if out.length > s.params.symbolCapacity then .error (.raise .capacityExceeded)
      else .ok (s.putOutput out)

/-- DEC (R130). -/
def execDec (s : State) : Host.Outcome State Fault Refusal :=
  finishCommand s.dropOutput (decodeInput s)

end Sys2Proof.Machine
end

