-- ==== Sys2Proof/Machine/Encoder.lean ====
section
/-! DEFINITION. The encoder: the command ENC (42_encoder R115 to R121). -/

namespace Sys2Proof.Machine

/-- The lookup loop of R118 over the elements of SI from position i: their codes, concatenated in order.
LookupError at the first symbol without a valid entry (R116); a position without value is refused (R206). -/
def encodeSlots (ct : Store CodeEntry) : (i : Nat) → List (Option Symbol) → Except Abort (List Digit)
  | _, [] => .ok []
  | i, none :: _ => .error (.noValue .si i)
  | i, some sym :: rest =>
    match ct.read sym.toNat with
    | none => .error (.raise .lookupError)
    | some entry =>
      match encodeSlots ct (i + 1) rest with
      | .error e => .error e
      | .ok out => .ok (entry.digits ++ out)

/-- What ENC computes (R118), its errors in the priority order of R185. -/
def encodeInput (s : State) : Except Abort State :=
  if s.ctValid = false then .error (.raise .sequenceError)
  else
    match encodeSlots s.ct 0 s.symbolSlots with
    | .error e => .error e
    | .ok out =>
      if out.length > s.params.bitCapacity then .error (.raise .capacityExceeded)
      else .ok (s.putBits out)

/-- ENC (R118). -/
def execEnc (s : State) : Host.Outcome State Fault Refusal :=
  finishCommand s.dropBits (encodeInput s)

end Sys2Proof.Machine
end

