-- ==== Sys2Proof/Machine/Session.lean ====
section
/-! DEFINITION. Session control: the command END (44_session_and_host R140). -/

namespace Sys2Proof.Machine

/-- END (R140): both flags 0, and TM, ROOT, NNODES and CT hold no value; it cannot fail. -/
def execEndSession (s : State) : Host.Outcome State Fault Refusal :=
  finishCommand s.dropCodes.dropTree (.ok s.dropCodes.dropTree)

end Sys2Proof.Machine
end

