-- ==== Sys2Proof/Machine/TreeBuilder.lean ====
section
/-! DEFINITION. The tree builder HTB: the command BUILD (40_tree_builder R90 to R101). -/

namespace Sys2Proof.Machine

/-- A leaf of TM (R22): `left` = `right` = NIL. -/
def leafNode (sym : Symbol) (weight : Nat) : TreeNode :=
  { kind := .leaf, sym := sym, weight := weight, left := NIL, right := NIL }

/-- An internal node of TM (R22): `sym` = 0. -/
def internalNode (weight : Nat) (left right : NodeIndex) : TreeNode :=
  { kind := .internal, sym := 0#8, weight := weight, left := left, right := right }

/-- A node of the live set Q, as its priority: the pair (weight, index) of R92. -/
structure Live where
  weight : Nat
  index : Nat
  deriving DecidableEq, Repr

/-- x comes before y in the priority order: the lesser weight, on equal weights the lesser index (R92). -/
def Live.before (x y : Live) : Bool :=
  decide (x.weight < y.weight) || (x.weight == y.weight && decide (x.index < y.index))

/-- The minimum of Q in the order of R92 and Q without it; none when Q is empty (R98 `argmin`). -/
def extractMin : List Live → Option (Live × List Live)
  | [] => none
  | x :: rest =>
    match extractMin rest with
    | none => some (x, [])
    | some (m, others) => if x.before m then some (x, rest) else some (m, x :: others)

/-- The internal nodes the combine steps create from Q, in order, the first of them at index `next`
(R93, R94, R98 `while`). Each step lowers the size of Q by one, so `fuel` = the size of Q is enough. -/
def combine : (fuel : Nat) → List Live → (next : Nat) → List TreeNode
  | 0, _, _ => []
  | fuel + 1, q, next =>
    match extractMin q with
    | none => []
    | some (a, q1) =>
      match extractMin q1 with
      | none => []
      | some (b, q2) =>
        internalNode (a.weight + b.weight) (BitVec.ofNat 9 a.index) (BitVec.ofNat 9 b.index)
          :: combine fuel ({ weight := a.weight + b.weight, index := next } :: q2) (next + 1)

/-- The leaves, one per present symbol, in ascending order of the symbol (R91, R99). -/
def leafNodes (entries : List (Symbol × Nat)) : List TreeNode :=
  entries.map (fun e => leafNode e.1 e.2)

/-- Q before the first combine step: the leaves, node k for the k-th entry (R98). -/
def liveFrom : Nat → List (Symbol × Nat) → List Live
  | _, [] => []
  | k, e :: rest => { weight := e.2, index := k } :: liveFrom (k + 1) rest

/-- All nodes of the tree, in order of their index (R91 to R95): for one entry the leaf and the
synthesised root, otherwise the leaves and the combine steps' nodes. -/
def treeNodes (entries : List (Symbol × Nat)) : List TreeNode :=
  match entries with
  | [(sym, count)] => [leafNode sym count, internalNode count 0#9 NIL]
  | _ => leafNodes entries ++ combine entries.length (liveFrom 0 entries) entries.length

/-- What BUILD computes (R98): InvalidInput on an empty table (R96), CapacityExceeded when the exact
total exceeds 2^W_W − 1 (R97), otherwise the tree. -/
def buildTree (s : State) : Except Abort State :=
  let entries := presentEntries s.ft
  if entries = [] then .error (.raise .invalidInput)
  else if totalCount entries > 2 ^ s.params.weightWidth - 1 then .error (.raise .capacityExceeded)
  else .ok (s.dropCodes.putTree (treeNodes entries))

/-- BUILD (R98). On failure tree and code table are gone, whatever was valid before (R176, R180). -/
def execBuild (s : State) : Host.Outcome State Fault Refusal :=
  finishCommand s.dropCodes.dropTree (buildTree s)

end Sys2Proof.Machine
end

