-- ==== Sys2Proof/Machine/Flags.lean ====
section
/-! DEFINITION. The block's condition state as words: the status code (30_encoding R74) and FLAGS (R75). No
arithmetic condition exists (10_state R29). -/

namespace Sys2Proof.Machine

/-- The 3-bit code of a status (R74). -/
def Status.code : Status → BitVec 3
  | .ok => 0#3
  | .invalidInput => 1#3
  | .lookupError => 2#3
  | .malformedStream => 3#3
  | .nullTraversal => 4#3
  | .capacityExceeded => 5#3
  | .sequenceError => 6#3
  | .illegalCommand => 7#3

/-- FLAGS as a 32-bit word: bit 0 TREE_VALID, bit 1 CT_VALID, bits 31:2 zero (R75). -/
def State.flagsWord (s : State) : BitVec 32 :=
  0#30 ++ BitVec.ofBool s.ctValid ++ BitVec.ofBool s.treeValid

end Sys2Proof.Machine
end

