-- ==== Sys2Proof/Machine/HostPort.lean ====
section
/-! DEFINITION. The host port (44_session_and_host R142 to R145): host reads, host writes, command issues, and
the reset event (70_reset R195). -/

namespace Sys2Proof.Machine

/-! ## The entry words the host reads (30_encoding R75 to R81) -/

/-- A field that holds a value. -/
def Field.holding (width value : Nat) : Field := { width := width, value := some value }

/-- A register of `width` bits read as a 32-bit word, zero-extended (R76). -/
def registerWord (width : Nat) (value : Option Nat) : List Field :=
  [Field.holding (32 - width) 0, { width := width, value := value }]

/-- Registers 0 to 6 as words (R75, R76). ROOT and NNODES hold a value only while TREE_VALID = 1 (R23).
CMD holds no state and is not read (R142). -/
def State.csrWord (s : State) : Csr → List Field
  | .status => registerWord 3 (some s.status.code.toNat)
  | .flags => registerWord 32 (some s.flagsWord.toNat)
  | .root => registerWord 9 (if s.treeValid then some s.root.toNat else none)
  | .nnodes => registerWord 9 (if s.treeValid then some s.nnodes.toNat else none)
  | .siLen => registerWord 32 (some s.siLen.toNat)
  | .bsLen => registerWord 32 (some s.bsLen.toNat)
  | .soLen => registerWord 32 (some s.soLen.toNat)
  | .cmd => []

/-- The FT entry word (present, count) (R78); the count of an absent symbol holds no value (R21). -/
def State.ftWord (s : State) (i : Nat) : List Field :=
  match s.ft.read i with
  | some count => [Field.holding 1 1, Field.holding s.params.weightWidth count]
  | none => [Field.holding 1 0, { width := s.params.weightWidth, value := none }]

/-- `kind` as a bit: 0 leaf, 1 internal (R22). -/
def NodeKind.bit : NodeKind → Nat
  | .leaf => 0
  | .internal => 1

/-- The TM entry word (kind, sym, left, right, weight) (R79). -/
def State.tmWord (s : State) (i : Nat) : List Field :=
  let node := s.tm.read i
  [ { width := 1, value := node.map (·.kind.bit) },
    { width := 8, value := node.map (·.sym.toNat) },
    { width := 9, value := node.map (·.left.toNat) },
    { width := 9, value := node.map (·.right.toNat) },
    { width := s.params.weightWidth, value := node.map (·.weight) } ]

/-- The CT entry word (valid, len, code) (R80). Nothing holds a value while CT_VALID = 0, and len and
code hold none in an invalid entry (R24, 93 U1; notes/assumptions/8.md). -/
def State.ctWord (s : State) (i : Nat) : List Field :=
  if s.ctValid then
    let entry := s.ct.read i
    [ Field.holding 1 entry.isSome.toNat,
      { width := 8, value := entry.map (·.len.toNat) },
      { width := 255, value := entry.map (·.code.toNat) } ]
  else
    [ { width := 1, value := none }, { width := 8, value := none }, { width := 255, value := none } ]

/-- The entry word of (space, index), its fields the most significant first (R75 to R81, R142). -/
def State.entryWord (s : State) (sp : Space) (i : Nat) : List Field :=
  match sp with
  | .csr =>
    match Csr.ofNumber i with
    | some r => s.csrWord r
    | none => []
  | .ft => s.ftWord i
  | .tm => s.tmWord i
  | .ct => s.ctWord i
  | .si => [{ width := 8, value := (s.si.read i).map (·.toNat) }]
  | .bs => [{ width := 1, value := (s.bs.read i).map (·.toNat) }]
  | .so => [{ width := 8, value := (s.so.read i).map (·.toNat) }]

/-- The whole word, when every field of it holds a value. -/
def wordValue (fields : List Field) : Option Nat :=
  fields.foldl
    (fun acc f =>
      match acc, f.value with
      | some w, some v => some (w * 2 ^ f.width + v)
      | _, _ => none)
    (some 0)

/-! ## Access rights (20_memory R51, 44_session_and_host R142, R143) -/

/-- Is the host's read of (space, index) accepted (R142)? -/
def readable (p : Params) (sp : Space) (i : Nat) : Bool :=
  decide (i < sp.entries p) && !(sp == .csr && i == 7)

/-- Is the host's write of `wdata` to (space, index), which is not CMD, accepted (R143)? -/
def writable (p : Params) (sp : Space) (i wdata : Nat) : Bool :=
  match sp with
  | .csr => (i == 4 && decide (wdata ≤ p.symbolCapacity)) || (i == 5 && decide (wdata ≤ p.bitCapacity))
  | .ft | .si | .bs => decide (i < sp.entries p)
  | .tm | .ct | .so => false

/-- The answer to a refused transaction: `rdata` has no meaning (R82, R142). -/
def refusedResponse : Response := { err := true, rdata := [] }

/-- The answer to an accepted write other than to CMD: `rdata` has no meaning (R82). -/
def writtenResponse : Response := { err := false, rdata := [] }

/-- The answer to a command issue: `rdata` is STATUS, zero-extended to 32 bits (R82, R144). -/
def statusResponse (e : Status) : Response :=
  { err := false, rdata := registerWord 3 (some e.code.toNat) }

/-! ## The transactions -/

/-- HostRead (R142): it changes no state but what the port answers. -/
def hostRead (s : State) (sp : Option Space) (i : Nat) : State :=
  match sp with
  | none => s.respond refusedResponse
  | some sp =>
    if readable s.params sp i then s.respond { err := false, rdata := s.entryWord sp i }
    else s.respond refusedResponse

/-- MemWrite of an accepted host write: exactly the addressed entry (R143). `wdata` is the entry word:
for FT the bit W_W is `present` and the bits below it the count (R78). -/
def State.writeEntry (s : State) (sp : Space) (i wdata : Nat) : State :=
  match sp with
  | .csr =>
    if i = 4 then s.setSymbolLength (BitVec.ofNat 32 wdata)
    else if i = 5 then s.setBitLength (BitVec.ofNat 32 wdata)
    else s
  | .ft =>
    if wdata.testBit s.params.weightWidth then s.writeCount i (wdata % 2 ^ s.params.weightWidth)
    else s.removeCount i
  | .si => s.writeSymbol i (BitVec.ofNat 8 wdata)
  | .bs => s.writeDigit i (wdata.testBit 0)
  | .tm | .ct | .so => s

/-- HostWrite, other than to CMD (R143). The port carries the W_E bits of the addressed space (R82). -/
def hostWrite (s : State) (sp : Option Space) (i wdata : Nat) : State :=
  match sp with
  | none => s.respond refusedResponse
  | some sp =>
    let word := wdata % 2 ^ sp.entryWidth s.params
    if writable s.params sp i word then (s.writeEntry sp i word).respond writtenResponse
    else s.respond refusedResponse

/-- HostCommand (R144): the command's rule, or for an illegal word STATUS 7 and nothing else (R141). The
answer is STATUS as the command left it. -/
def hostCommand (s : State) (w : CommandWord) : Host.Outcome State Fault Refusal :=
  match decode w with
  | .error _ => .next ((s.endWith .illegalCommand).respond (statusResponse .illegalCommand))
  | .ok i =>
    match exec i s with
    | .next t => .next (t.respond (statusResponse t.status))
    | .fault f => .fault f
    | .refused r => .refused r

/-- One host transaction: a read, a write, or a command issue (R145). -/
def hostTransaction (s : State) (r : Request) : Host.Outcome State Fault Refusal :=
  let sp := Space.ofNumber r.space
  let i := r.index.toNat
  if r.we then
    if sp = some .csr ∧ i = 7 then hostCommand s (BitVec.ofNat 32 r.wdata)
    else .next (hostWrite s sp i r.wdata)
  else .next (hostRead s sp i)

/-- One event of the outside world: a transaction (R145) or reset (R195). -/
def hostEvent (s : State) : HostEvent → Host.Outcome State Fault Refusal
  | .transaction r => hostTransaction s r
  | .reset => .next s.applyReset

/-- The next event is taken and performed. With no event pending the block is idle and holds its state:
the core does nothing on its own (R145, R191). -/
def nextEvent (s : State) : Host.Outcome State Fault Refusal :=
  match s.pending with
  | [] => .next s
  | e :: rest => hostEvent { s with pending := rest } e

end Sys2Proof.Machine
end

