-- ==== Sys2Proof/Machine/Step.lean ====
section
/-! DEFINITION. The step: one event of the outside world (44_session_and_host R145). -/

namespace Sys2Proof.Machine

/-- One step of the machine. -/
def step (s : State) : Host.Outcome State Fault Refusal := nextEvent s

/-- The state in which the host's next transaction issues the command word w, of which nbits count: there
is no program counter and no fetch (10_state R33, 20_memory R59), so the machine runs an instruction
because the host writes its word to CMD (notes/assumptions/3.md). -/
def State.withFetchWord (s : State) (nbits w : Nat) : State :=
  { s with pending := .transaction (Request.issueWord (w % 2 ^ nbits)) :: s.pending }

end Sys2Proof.Machine
end

