-- ==== Sys2Proof/Machine/Abstract.lean ====
section
/-! DEFINITION. The document's own values and operations as mathematical functions (00_scope R13): trees, code
tables, encode, decode (R105, R115, R125), the reading of a tree out of TM (R22), and the contract of the
external frequency counter (R170). The commands are stated against them. -/

namespace Sys2Proof.Machine

/-- The Tree of R13, `missing` standing for `none` in the place of a child. -/
inductive Tree where
  | missing
  | leaf (sym : Symbol) (weight : Nat)
  | node (weight : Nat) (left right : Tree)
  deriving DecidableEq, Repr

/-- `tree_of` of R22, following at most fuel links; none when an entry on the way holds no value, or the
links do not end. -/
def treeOfWithin (tm : Store TreeNode) : (fuel : Nat) → NodeIndex → Option Tree
  | 0, _ => none
  | fuel + 1, n =>
    if n = NIL then some .missing
    else
      match tm.read n.toNat with
      | none => none
      | some node =>
        match node.kind with
        | .leaf => some (.leaf node.sym node.weight)
        | .internal =>
          match treeOfWithin tm fuel node.left, treeOfWithin tm fuel node.right with
          | some l, some r => some (.node node.weight l r)
          | _, _ => none

/-- The tree that TM holds below node n (R22). No path of links is longer than NODE_MAX. -/
def treeOf (tm : Store TreeNode) (n : NodeIndex) : Option Tree :=
  treeOfWithin tm (Config.nodeCapacity + 1) n

/-- `paths` of R105. -/
def paths : Tree → List Digit → List (Symbol × List Digit)
  | .missing, _ => []
  | .leaf sym _, p => [(sym, p)]
  | .node _ l r, p => paths l (p ++ [false]) ++ paths r (p ++ [true])

/-- `generateCodes` of R105. -/
def generateCodes (t : Tree) : List (Symbol × List Digit) := paths t []

/-- The code of a symbol in the table of a tree, if the symbol has a leaf (R105). -/
def codeOf (t : Tree) (sym : Symbol) : Option (List Digit) := (generateCodes t).lookup sym

/-- `encode` of R115 over a code table; none is LookupError (R116). -/
def encodeSequence (codes : Symbol → Option (List Digit)) : List Symbol → Option (List Digit)
  | [] => some []
  | sym :: rest =>
    match codes sym, encodeSequence codes rest with
    | some p, some out => some (p ++ out)
    | _, _ => none

/-- `decode` of R125 as the state machine of R126 and R127 over a tree. The cursor is none at the root,
some t on an internal node below it whose tree is t. -/
def decodeFrom (t : Tree) : Option Tree → List Digit → Except Status (List Symbol)
  | cursor, [] => if cursor = none then .ok [] else .error .malformedStream
  | cursor, d :: rest =>
    let child :=
      match cursor.getD t with
      | .node _ l r => if d then r else l
      | _ => Tree.missing
    match child with
    | .missing => .error .nullTraversal
    | .leaf sym _ =>
      match decodeFrom t none rest with
      | .ok out => .ok (sym :: out)
      | .error e => .error e
    | .node w l r => decodeFrom t (some (.node w l r)) rest

/-- `decode` of R125, the cursor starting at the root. -/
def decodeSequence (t : Tree) (digits : List Digit) : Except Status (List Symbol) :=
  decodeFrom t none digits

/-- `countFrequencies` of R170 in the form FT holds it (R171): each symbol that occurs, with the number
of its occurrences. -/
def frequencyTable (symbols : List Symbol) : Store Nat :=
  (List.range Config.symbolCount).filterMap
    (fun s =>
      let count := symbols.count (BitVec.ofNat 8 s)
      if count = 0 then none else some (s, count))

/-- The leaves of a tree with their weights, from left to right. -/
def Tree.leaves : Tree → List (Symbol × Nat)
  | .missing => []
  | .leaf sym w => [(sym, w)]
  | .node _ l r => l.leaves ++ r.leaves

/-- The weighted sum of the depths of a tree's leaves, the root being at the given depth (R160). -/
def Tree.weightedDepth : Tree → Nat → Nat
  | .missing, _ => 0
  | .leaf _ w, depth => w * depth
  | .node _ l r, depth => l.weightedDepth (depth + 1) + r.weightedDepth (depth + 1)

/-- The weight field of a tree's top node (R13). -/
def Tree.weight : Tree → Nat
  | .missing => 0
  | .leaf _ w => w
  | .node w _ _ => w

/-- Every node's weight is the sum of the weights of the leaves below it (R157). -/
def Tree.conserves : Tree → Prop
  | .missing => True
  | .leaf _ _ => True
  | .node w l r => w = totalCount (l.leaves ++ r.leaves) ∧ l.conserves ∧ r.conserves

end Sys2Proof.Machine
end

