-- ==== Sys2Proof/Machine/Script.lean ====
section
/-! DEFINITION. The script statements and pseudo-instructions of 30_encoding R83 and R84, as the host
transactions they expand to. -/

namespace Sys2Proof.Machine

/-- One statement of the script language (R83, R84). -/
inductive Statement where
  /-- A command: exactly `WR CSR[CMD], word` (R83). -/
  | command (i : Instr)
  /-- `WR space[index], value`. -/
  | wr (sp : Space) (index : BitVec 32) (value : Nat)
  /-- `RD space[index]`. -/
  | rd (sp : Space) (index : BitVec 32)
  /-- `CMD w`: `WR CSR[CMD], w`; it can issue illegal words. -/
  | cmd (w : CommandWord)
  /-- `LDFT`: all 256 entries of FT, absent where the table has no count. -/
  | ldft (table : List (Symbol × Nat))
  /-- `LDSI`: SI[0] upward, then SI_LEN. -/
  | ldsi (symbols : List Symbol)
  /-- `LDBS`: BS[0] upward, then BS_LEN. -/
  | ldbs (digits : List Digit)
  /-- `EXPECT`: no transaction. -/
  | expect
  deriving DecidableEq, Repr

/-- A write of one entry (R83). -/
def Request.write (sp : Space) (index : BitVec 32) (value : Nat) : Request :=
  { we := true, space := sp.number, index := index, wdata := value }

/-- A read of one entry (R83). -/
def Request.read (sp : Space) (index : BitVec 32) : Request :=
  { we := false, space := sp.number, index := index, wdata := 0 }

/-- The FT entry word `P:count` for a present symbol, `A` for an absent one (R83, R78). -/
def ftEntryWord (p : Params) : Option Nat → Nat
  | some count => 2 ^ p.weightWidth + count
  | none => 0

/-- The writes of a list of entry words to a space from index i upward. -/
def writesFrom (sp : Space) : Nat → List Nat → List Request
  | _, [] => []
  | i, v :: rest => Request.write sp (BitVec.ofNat 32 i) v :: writesFrom sp (i + 1) rest

/-- The host transactions a statement expands to, in order (R83, R84). -/
def Statement.expand (p : Params) : Statement → List Request
  | .command i => [Request.issueWord (encode i).toNat]
  | .wr sp index value => [Request.write sp index value]
  | .rd sp index => [Request.read sp index]
  | .cmd w => [Request.issueWord w.toNat]
  | .ldft table =>
    writesFrom .ft 0
      ((List.range Config.symbolCount).map (fun s => ftEntryWord p (table.lookup (BitVec.ofNat 8 s))))
  | .ldsi symbols =>
    writesFrom .si 0 (symbols.map (·.toNat)) ++ [Request.write .csr Csr.siLen.number symbols.length]
  | .ldbs digits =>
    writesFrom .bs 0 (digits.map (·.toNat)) ++ [Request.write .csr Csr.bsLen.number digits.length]
  | .expect => []

/-- The events of a script, executed from top to bottom (R83). -/
def scriptEvents (p : Params) (script : List Statement) : List HostEvent :=
  (script.flatMap (·.expand p)).map HostEvent.transaction

/-- The state in which the host is about to run a script. -/
def State.withScript (s : State) (script : List Statement) : State :=
  { s with pending := scriptEvents s.params script }

end Sys2Proof.Machine
end

