-- ==== Sys2Proof/Safety.lean ====
section
/-! DEFINITION. The invariants of the state (10_state R30), in the terms the statements use. -/

namespace Sys2Proof.Machine

/-- A store is in canonical form: indices strictly rising, all below the store's size (R51). -/
abbrev Store.wf {α : Type} (size : Nat) (st : Store α) : Prop :=
  st.Pairwise (fun a b => a.1 < b.1) ∧ ∀ c ∈ st, c.1 < size

/-- All six stores are in canonical form. -/
abbrev Memory.wf (s : State) : Prop :=
  Store.wf (Space.ft.entries s.params) s.ft ∧ Store.wf (Space.tm.entries s.params) s.tm ∧
  Store.wf (Space.ct.entries s.params) s.ct ∧ Store.wf (Space.si.entries s.params) s.si ∧
  Store.wf (Space.bs.entries s.params) s.bs ∧ Store.wf (Space.so.entries s.params) s.so

/-- The number N of leaves among the entries of TM (R30 (b)). -/
def leafCount (tm : Store TreeNode) : Nat := tm.countP (fun c => c.2.kind == .leaf)

/-- All `left` and `right` fields of the entries of TM (R22, R30 (b)). -/
def childLinks (tm : Store TreeNode) : List NodeIndex := tm.flatMap (fun c => [c.2.left, c.2.right])

/-- The shape of every tree BUILD produces (R30 (b), R100). -/
structure TreeShape (p : Params) (tm : Store TreeNode) (root nnodes : BitVec 9) : Prop where
  /-- 1 ≤ N ≤ 256. -/
  leafBound : 1 ≤ leafCount tm ∧ leafCount tm ≤ Config.symbolCount
  /-- NNODES = 2N − 1 for N ≥ 2, and 2 for N = 1. -/
  nodeCount : nnodes.toNat = if leafCount tm = 1 then 2 else 2 * leafCount tm - 1
  /-- ROOT = NNODES − 1. -/
  rootLast : root.toNat + 1 = nnodes.toNat
  /-- The tree uses exactly the entries 0..NNODES − 1. -/
  entries : ∀ i, (tm.read i).isSome = true ↔ i < nnodes.toNat
  /-- Entries 0..N − 1 are leaves. -/
  leaves : ∀ i, i < leafCount tm → ∃ sym w, tm.read i = some (leafNode sym w)
  /-- The leaves' symbols are strictly increasing. -/
  rising : ∀ i j a b, i < j → j < leafCount tm → tm.read i = some a → tm.read j = some b →
    a.sym.toNat < b.sym.toNat
  /-- N ≥ 2: entries from N on are internal, both children before them, weight the children's sum. -/
  internals : 2 ≤ leafCount tm → ∀ i, leafCount tm ≤ i → i < nnodes.toNat →
    ∃ l r a b, tm.read i = some (internalNode (a.weight + b.weight) l r) ∧
      l.toNat < i ∧ r.toNat < i ∧ tm.read l.toNat = some a ∧ tm.read r.toNat = some b
  /-- N = 1: entry 1 is the synthesised root, with left = 0 and right = NIL. -/
  single : leafCount tm = 1 → ∃ a, tm.read 0 = some a ∧ tm.read 1 = some (internalNode a.weight 0#9 NIL)
  /-- Every node but the root is the child of exactly one node. -/
  parents : ∀ c : NodeIndex, c.toNat + 1 < nnodes.toNat → (childLinks tm).count c = 1
  /-- Every weight fits W_W bits: no sum has wrapped. -/
  weights : ∀ i node, tm.read i = some node → node.weight < 2 ^ p.weightWidth

/-- CT holds the code table of the tree in TM (R30 (c)): each symbol's entry is its path's, and a path
has 1 to 255 digits. -/
def CodesMatch (s : State) : Prop :=
  ∃ t, treeOf s.tm s.root = some t ∧ ∀ sym : Symbol,
    s.ct.read sym.toNat = (codeOf t sym).map CodeEntry.ofDigits ∧
    ∀ p, codeOf t sym = some p → 1 ≤ p.length ∧ p.length ≤ Config.codeCapacity

/-- The invariants of R30, and what R8, R21 and R31 add to them. -/
structure Inv (s : State) : Prop where
  /-- R8: the parameters meet their constraints. -/
  params : s.params.wellFormed = true
  /-- The stores are in canonical form. -/
  memory : Memory.wf s
  /-- R21: a count has W_W bits. -/
  counts : ∀ c ∈ s.ft, c.2 < 2 ^ s.params.weightWidth
  /-- R30 (a). -/
  flags : s.ctValid = true → s.treeValid = true
  /-- R30 (b). -/
  tree : s.treeValid = true → TreeShape s.params s.tm s.root s.nnodes
  /-- R31: without a tree TM holds no value. -/
  noTree : s.treeValid = false → s.tm = []
  /-- R30 (c). -/
  codes : s.ctValid = true → CodesMatch s
  /-- R31: without a code table CT holds no value. -/
  noCodes : s.ctValid = false → s.ct = []
  /-- R30 (d). -/
  lengths : s.siLen.toNat ≤ s.params.symbolCapacity ∧ s.bsLen.toNat ≤ s.params.bitCapacity ∧
    s.soLen.toNat ≤ s.params.symbolCapacity

/-! ## The terms of the statements -/

/-- The code CT holds for a symbol, if its entry is valid (R24). -/
def State.codeIn (s : State) (sym : Symbol) : Option (List Digit) :=
  (s.ct.read sym.toNat).map CodeEntry.digits

/-- SI[0..SI_LEN − 1] is the given sequence: every element holds a value (R25). -/
def HoldsSymbols (s : State) (symbols : List Symbol) : Prop := s.symbolSlots = symbols.map some

/-- BS[0..BS_LEN − 1] is the given bitstream: every element holds a value (R26). -/
def HoldsDigits (s : State) (digits : List Digit) : Prop := s.bitSlots = digits.map some

/-- SO[0..SO_LEN − 1] is the given sequence (R27). -/
def HoldsOutput (s : State) (symbols : List Symbol) : Prop :=
  s.so.slots s.soLen.toNat = symbols.map some

/-- No symbol is present in FT: the table is empty (R21). -/
def EmptyTable (s : State) : Prop := ∀ i, i < 256 → s.ft.read i = none

/-- No tree: TREE_VALID = 0, no entry of TM holds a value, and the host reads none from ROOT and NNODES
(R29, R31). -/
def NoTree (s : State) : Prop :=
  s.treeValid = false ∧ (∀ i, s.tm.read i = none) ∧
  wordValue (s.entryWord .csr 2) = none ∧ wordValue (s.entryWord .csr 3) = none

/-- No code table: CT_VALID = 0, and no entry of CT holds a value (R29, R31). -/
def NoCodes (s : State) : Prop :=
  s.ctValid = false ∧ ∀ i, s.ct.read i = none ∧ wordValue (s.entryWord .ct i) = none

end Sys2Proof.Machine
end

