-- ==== Sys2Proof/Certificates/Slice0/Obligations.lean ====
section
/-! DEFINITION. The statements for the provers, each over every state of every chip (the parameters W_W, L_MAX
and B_MAX are part of the state), unless a hypothesis says otherwise. -/

open Sys2Proof Sys2Proof.Machine

/-! ## Encoding -/

/-- R71: the five words and their commands; the words beside them are illegal. -/
def Obligations.CommandWordsDecode : Prop :=
  decode 0x00000001#32 = .ok .build ∧ decode 0x00000002#32 = .ok .gen ∧
  decode 0x00000003#32 = .ok .enc ∧ decode 0x00000004#32 = .ok .dec ∧
  decode 0x00000005#32 = .ok .endSession ∧
  decode 0x00000000#32 = .error (.unassignedOpcode 0#8) ∧
  decode 0x00000006#32 = .error (.unassignedOpcode 6#8) ∧
  decode 0x00000101#32 = .error .reservedBits

/-- R70, R71: decoding a command's word gives the command back. -/
def Obligations.DecodeInvertsEncode : Prop :=
  ∀ i : Instr, i.wellFormed = true ∧ decode (encode i) = .ok i

/-- R71: a word decodes to a command exactly when all its 32 bits are those of the command's word. -/
def Obligations.OnlyFiveWordsDecode : Prop :=
  ∀ (w : CommandWord) (i : Instr),
    decode w = .ok i ↔
      w = (match i with
        | .build => 0x00000001#32
        | .gen => 0x00000002#32
        | .enc => 0x00000003#32
        | .dec => 0x00000004#32
        | .endSession => 0x00000005#32)

/-! ## The host port -/

/-- R144, R145: when the next transaction writes a word to CMD that decodes to i, the step is exec of i
on the state without that transaction, and the answer is STATUS as i left it, zero-extended. -/
def Obligations.StepRunsTheDecodedCommand : Prop :=
  ∀ (s : State) (r : Request) (rest : List HostEvent) (i : Instr),
    s.pending = .transaction r :: rest → r.we = true → r.space = 0#3 → r.index = 7#32 →
    decode (BitVec.ofNat 32 r.wdata) = .ok i →
    step s =
      match exec i { s with pending := rest } with
      | .next t =>
        .next { t with response := some ⟨false, [⟨29, some 0⟩, ⟨3, some t.status.code.toNat⟩]⟩ }
      | .fault f => .fault f
      | .refused r => .refused r

/-- R141, R182: a word that is none of the five changes STATUS and nothing else; the transaction is
accepted and answers 7. -/
def Obligations.IllegalWordsOnlySetStatus : Prop :=
  ∀ (s : State) (r : Request) (rest : List HostEvent),
    s.pending = .transaction r :: rest → r.we = true → r.space = 0#3 → r.index = 7#32 →
    ¬(1 ≤ r.wdata % 2 ^ 32 ∧ r.wdata % 2 ^ 32 ≤ 5) →
    step s = .next
      { s with
        pending := rest
        status := .illegalCommand
        response := some ⟨false, [⟨29, some 0⟩, ⟨3, some 7⟩]⟩ }

/-- R145, R191: with no transaction to perform the block holds its state. -/
def Obligations.IdleBlockHoldsItsState : Prop :=
  ∀ s : State, s.pending = [] → step s = .next s

/-- R142: a read is refused exactly for space 7, an index outside the space, and CMD; accepted or
refused, it changes no state. -/
def Obligations.HostReadsChangeNothing : Prop :=
  ∀ (s : State) (r : Request) (rest : List HostEvent),
    s.pending = .transaction r :: rest → r.we = false →
    ∃ answer : Response,
      step s = .next { s with pending := rest, response := some answer } ∧
      (answer.err = false ↔
        (r.space = 0#3 ∧ r.index.toNat < 7) ∨
        (r.space = 1#3 ∧ r.index.toNat < 256) ∨
        (r.space = 2#3 ∧ r.index.toNat < 511) ∨
        (r.space = 3#3 ∧ r.index.toNat < 256) ∨
        (r.space = 4#3 ∧ r.index.toNat < s.params.symbolCapacity) ∨
        (r.space = 5#3 ∧ r.index.toNat < s.params.bitCapacity) ∨
        (r.space = 6#3 ∧ r.index.toNat < s.params.symbolCapacity)) ∧
      (∀ sp, Space.ofNumber r.space = some sp → answer.err = false →
        answer.rdata = s.entryWord sp r.index.toNat)

/-- R143: a write other than to CMD is refused exactly when its space, index or value is not one the host
may write, and then nothing changes but the answer. Space 7 has no entry word that could bound `wdata`. -/
def Obligations.RefusedWritesChangeNothing : Prop :=
  ∀ (s : State) (r : Request) (rest : List HostEvent),
    s.pending = .transaction r :: rest → r.we = true →
    (r.space ≠ 7#3 → r.wellFormed s.params = true) →
    ¬((r.space = 0#3 ∧ r.index.toNat = 7) ∨
      (r.space = 0#3 ∧ r.index.toNat = 4 ∧ r.wdata ≤ s.params.symbolCapacity) ∨
      (r.space = 0#3 ∧ r.index.toNat = 5 ∧ r.wdata ≤ s.params.bitCapacity) ∨
      (r.space = 1#3 ∧ r.index.toNat < 256) ∨
      (r.space = 4#3 ∧ r.index.toNat < s.params.symbolCapacity) ∨
      (r.space = 5#3 ∧ r.index.toNat < s.params.bitCapacity)) →
    step s = .next { s with pending := rest, response := some ⟨true, []⟩ }

/-- R143: an accepted write replaces exactly the addressed entry; every other entry of its store reads as
before, and nothing else changes. -/
def Obligations.AcceptedWritesReplaceOneEntry : Prop :=
  ∀ (s : State) (r : Request) (rest : List HostEvent),
    s.pending = .transaction r :: rest → r.we = true → r.wellFormed s.params = true →
    (r.space = 0#3 → r.index.toNat = 4 → r.wdata ≤ s.params.symbolCapacity →
      step s = .next
        { s with siLen := BitVec.ofNat 32 r.wdata, pending := rest, response := some ⟨false, []⟩ }) ∧
    (r.space = 0#3 → r.index.toNat = 5 → r.wdata ≤ s.params.bitCapacity →
      step s = .next
        { s with bsLen := BitVec.ofNat 32 r.wdata, pending := rest, response := some ⟨false, []⟩ }) ∧
    (r.space = 1#3 → r.index.toNat < 256 →
      ∃ ft, step s = .next { s with ft := ft, pending := rest, response := some ⟨false, []⟩ } ∧
        ft.read r.index.toNat =
          (if 2 ^ s.params.weightWidth ≤ r.wdata then some (r.wdata - 2 ^ s.params.weightWidth) else none) ∧
        ∀ j, j ≠ r.index.toNat → ft.read j = s.ft.read j) ∧
    (r.space = 4#3 → r.index.toNat < s.params.symbolCapacity →
      ∃ si, step s = .next { s with si := si, pending := rest, response := some ⟨false, []⟩ } ∧
        si.read r.index.toNat = some (BitVec.ofNat 8 r.wdata) ∧
        ∀ j, j ≠ r.index.toNat → si.read j = s.si.read j) ∧
    (r.space = 5#3 → r.index.toNat < s.params.bitCapacity →
      ∃ bs, step s = .next { s with bs := bs, pending := rest, response := some ⟨false, []⟩ } ∧
        bs.read r.index.toNat = some (r.wdata == 1) ∧
        ∀ j, j ≠ r.index.toNat → bs.read j = s.bs.read j)

/-- R57 (d): an accepted write of a whole entry word, followed by a read of the same entry, answers the
word written. -/
def Obligations.ReadAfterWriteGivesTheWord : Prop :=
  ∀ (s : State) (sp : Space) (index : BitVec 32) (w : Nat) (rest : List HostEvent),
    s.pending = .transaction (Request.write sp index w) :: .transaction (Request.read sp index) :: rest →
    w < 2 ^ sp.entryWidth s.params →
    (sp = .csr ∧ index.toNat = 4 ∧ w ≤ s.params.symbolCapacity) ∨
      (sp = .csr ∧ index.toNat = 5 ∧ w ≤ s.params.bitCapacity) ∨
      (sp = .ft ∧ index.toNat < 256 ∧ 2 ^ s.params.weightWidth ≤ w) ∨
      (sp = .si ∧ index.toNat < s.params.symbolCapacity) ∨
      (sp = .bs ∧ index.toNat < s.params.bitCapacity) →
    ∃ t u answer, step s = .next t ∧ step t = .next u ∧ u.response = some answer ∧
      answer.err = false ∧ wordValue answer.rdata = some w

/-- R75: FLAGS as a word. -/
def Obligations.FlagsWordLayout : Prop :=
  ∀ s : State,
    wordValue (s.entryWord .csr 1) = some (s.treeValid.toNat + 2 * s.ctValid.toNat) ∧
    s.flagsWord.getLsbD 0 = s.treeValid ∧ s.flagsWord.getLsbD 1 = s.ctValid ∧
    ∀ b, 2 ≤ b → s.flagsWord.getLsbD b = false

/-- R74, R76, R78 to R81, R142: the code of each status; the words of the registers and the entry words of
the six stores as numbers, each field at its place; the bit that an absent entry of FT or an invalid entry of
CT shows; and no word where the state holds no value. -/
def Obligations.EntryWordLayouts : Prop :=
  (∀ e : Status, e.code.toNat =
    match e with
    | .ok => 0
    | .invalidInput => 1
    | .lookupError => 2
    | .malformedStream => 3
    | .nullTraversal => 4
    | .capacityExceeded => 5
    | .sequenceError => 6
    | .illegalCommand => 7) ∧
  ∀ s : State,
    wordValue (s.entryWord .csr 0) = some s.status.code.toNat ∧
    wordValue (s.entryWord .csr 2) = (if s.treeValid = true then some s.root.toNat else none) ∧
    wordValue (s.entryWord .csr 3) = (if s.treeValid = true then some s.nnodes.toNat else none) ∧
    wordValue (s.entryWord .csr 4) = some s.siLen.toNat ∧
    wordValue (s.entryWord .csr 5) = some s.bsLen.toNat ∧
    wordValue (s.entryWord .csr 6) = some s.soLen.toNat ∧
    ∀ i : Nat,
      (∀ count, s.ft.read i = some count →
        wordValue (s.entryWord .ft i) = some (2 ^ s.params.weightWidth + count)) ∧
      (s.ft.read i = none → s.entryWord .ft i = [⟨1, some 0⟩, ⟨s.params.weightWidth, none⟩]) ∧
      (∀ node, s.tm.read i = some node →
        wordValue (s.entryWord .tm i) = some
          ((match node.kind with | .leaf => 0 | .internal => 1) * 2 ^ (s.params.weightWidth + 26) +
            node.sym.toNat * 2 ^ (s.params.weightWidth + 18) +
            node.left.toNat * 2 ^ (s.params.weightWidth + 9) +
            node.right.toNat * 2 ^ s.params.weightWidth + node.weight)) ∧
      (s.tm.read i = none → wordValue (s.entryWord .tm i) = none) ∧
      (∀ entry, s.ctValid = true → s.ct.read i = some entry →
        wordValue (s.entryWord .ct i) = some (2 ^ 263 + entry.len.toNat * 2 ^ 255 + entry.code.toNat)) ∧
      (s.ctValid = true → s.ct.read i = none → (s.entryWord .ct i).head? = some ⟨1, some 0⟩) ∧
      (s.ctValid = false → wordValue (s.entryWord .ct i) = none) ∧
      wordValue (s.entryWord .si i) = (s.si.read i).map (fun sym => sym.toNat) ∧
      wordValue (s.entryWord .bs i) = (s.bs.read i).map (fun digit => if digit = true then 1 else 0) ∧
      wordValue (s.entryWord .so i) = (s.so.read i).map (fun sym => sym.toNat)

/-- R37, R203: a host transaction other than a command issue changes nothing but FT, SI, BS, SI_LEN and
BS_LEN; in particular no flag and not STATUS. -/
def Obligations.HostAccessesLeaveResultsAlone : Prop :=
  ∀ (s t : State) (r : Request) (rest : List HostEvent),
    s.pending = .transaction r :: rest → ¬(r.we = true ∧ r.space = 0#3 ∧ r.index = 7#32) →
    step s = .next t →
    t = { s with
      ft := t.ft, si := t.si, bs := t.bs, siLen := t.siLen, bsLen := t.bsLen,
      pending := rest, response := t.response }

/-! ## Reset -/

/-- R36: the values the spec gives for reset. What it gives no value (TM, CT, SI, BS, SO, ROOT, NNODES)
holds none. -/
def Obligations.ResetStateValues : Prop :=
  ∀ p : Params, ∀ s : State, s = State.resetOf p →
    s.status = .ok ∧ s.treeValid = false ∧ s.ctValid = false ∧ s.siLen = 0#32 ∧ s.bsLen = 0#32 ∧
    s.soLen = 0#32 ∧ EmptyTable s ∧ NoTree s ∧ NoCodes s ∧
    ∀ i, s.si.read i = none ∧ s.bs.read i = none ∧ s.so.read i = none

/-- R195: reset, from any state, gives the reset state of the same chip; the host's later events are still
to come. What the raw ROOT and NNODES are is left open: they hold no value (R36, R196). -/
def Obligations.ResetEventFromAnyState : Prop :=
  ∀ (s : State) (rest : List HostEvent), s.pending = .reset :: rest →
    ∃ t, step s = .next t ∧ NoTree t ∧
      t = { State.resetOf s.params with
        pending := rest, draws := t.draws, root := t.root, nnodes := t.nnodes }

/-- R196, R181, R140: the commands directly after reset: BUILD finds no table, GEN, ENC and DEC nothing
to work on, END succeeds. -/
def Obligations.CommandsAfterReset : Prop :=
  ∀ p : Params, ∀ i : Instr, ∃ t, exec i (State.resetOf p) = .next t ∧
    t.status = (match i with
      | .build => .invalidInput
      | .gen | .enc | .dec => .sequenceError
      | .endSession => .ok)

/-- R30, R36: the invariants hold at reset, for every chip whose parameters meet R8. -/
def Obligations.ResetMeetsTheInvariants : Prop :=
  ∀ p : Params, p.wellFormed = true → Inv (State.resetOf p)

/-! ## Invariants of every step -/

/-- The stores stay in canonical form, over any step from any state whose stores are. -/
def Obligations.StepKeepsStoresCanonical : Prop :=
  ∀ s t : State, Memory.wf s → step s = .next t → Memory.wf t

/-- R35: no step changes the parameters of the chip. -/
def Obligations.StepKeepsTheParameters : Prop :=
  ∀ s t : State, step s = .next t → t.params = s.params

/-- R30: the invariants of the state, kept by every step. -/
def Obligations.StepKeepsTheInvariants : Prop :=
  ∀ s t : State, Inv s → step s = .next t → Inv t

/-- R210, R206: in every state that meets the invariants every command completes, except that ENC and DEC
are refused where they read an element of SI or BS below its length that holds no value. -/
def Obligations.CommandsCompleteOrReadNoValue : Prop :=
  ∀ (s : State) (i : Instr), Inv s →
    (∃ t, exec i s = .next t) ∨
    (i = .enc ∧ ∃ k, k < s.siLen.toNat ∧ s.si.read k = none ∧ exec i s = .refused (.noValue .si k)) ∨
    (i = .dec ∧ ∃ k, k < s.bsLen.toNat ∧ s.bs.read k = none ∧ exec i s = .refused (.noValue .bs k))

/-! ## Statuses -/

/-- R175: which command can end with which status. -/
def Obligations.StatusesOfEachCommand : Prop :=
  ∀ (s t : State) (i : Instr), exec i s = .next t →
    t.status ∈ (match i with
      | .build => [Status.ok, .invalidInput, .capacityExceeded]
      | .gen => [.ok, .sequenceError]
      | .enc => [.ok, .lookupError, .capacityExceeded, .sequenceError]
      | .dec => [.ok, .malformedStream, .nullTraversal, .capacityExceeded, .sequenceError]
      | .endSession => [.ok])

/-- R181: SequenceError exactly when a command needs a tree or a code table that is not there; its
destination is then empty and nothing else changes. -/
def Obligations.SequenceErrorExactly : Prop :=
  ∀ s : State,
    (∀ i, (∃ t, exec i s = .next t ∧ t.status = .sequenceError) ↔
      ((i = .gen ∨ i = .dec) ∧ s.treeValid = false) ∨ (i = .enc ∧ s.ctValid = false)) ∧
    (s.treeValid = false →
      exec .gen s = .next { s with status := .sequenceError, ctValid := false, ct := [] } ∧
      exec .dec s = .next { s with status := .sequenceError, soLen := 0#32, so := [] }) ∧
    (s.ctValid = false →
      exec .enc s = .next { s with status := .sequenceError, bsLen := 0#32, bs := [] })

/-! ## BUILD -/

/-- R176, R96: InvalidInput exactly when BUILD finds no present entry; then there is no tree and no code
table, whatever was valid before, and nothing else changes. -/
def Obligations.InvalidInputExactly : Prop :=
  ∀ s : State,
    (∀ i, (∃ t, exec i s = .next t ∧ t.status = .invalidInput) ↔ i = .build ∧ EmptyTable s) ∧
    (EmptyTable s → ∃ t, exec .build s = .next t ∧ t.status = .invalidInput ∧ NoTree t ∧ NoCodes t ∧
      t = { s with
        status := .invalidInput, treeValid := false, ctValid := false, tm := [], ct := [],
        root := t.root, nnodes := t.nnodes, draws := t.draws })

/-- R97: a total of the present counts above 2^W_W − 1 is CapacityExceeded: no node is made, there is no
tree and no code table, and nothing else changes. -/
def Obligations.BuildRefusesTooLargeTotals : Prop :=
  ∀ s : State, totalCount (presentEntries s.ft) > 2 ^ s.params.weightWidth - 1 →
    ∃ t, exec .build s = .next t ∧ t.status = .capacityExceeded ∧ NoTree t ∧ NoCodes t ∧
      t = { s with
        status := .capacityExceeded, treeValid := false, ctValid := false, tm := [], ct := [],
        root := t.root, nnodes := t.nnodes, draws := t.draws }

/-- R98, R94, R100 (b): on a table that is not empty and whose total fits, BUILD completes with status 0
and a valid tree: for N ≥ 2 present entries NNODES = 2N − 1 and ROOT = 2N − 2, for N = 1 NNODES = 2 and
ROOT = 1; exactly the entries below NNODES hold a value; the code table is gone; nothing else changes. -/
def Obligations.BuildCompletes : Prop :=
  ∀ (s : State) (n : Nat),
    n = (List.range 256).countP (fun i => (s.ft.read i).isSome) → 1 ≤ n →
    totalCount (presentEntries s.ft) ≤ 2 ^ s.params.weightWidth - 1 →
    ∃ t, exec .build s = .next t ∧ t.status = .ok ∧ t.treeValid = true ∧ NoCodes t ∧
      t.nnodes.toNat = (if n = 1 then 2 else 2 * n - 1) ∧ t.root.toNat + 1 = t.nnodes.toNat ∧
      (∀ i, (t.tm.read i).isSome = true ↔ i < t.nnodes.toNat) ∧
      t = { s with
        status := .ok, treeValid := true, ctValid := false, tm := t.tm, ct := [],
        root := t.root, nnodes := t.nnodes }

/-- R91, R99: after a successful BUILD each present symbol, with count 0 or not, has a leaf with its count
as weight, at the index that counts the present symbols below it. -/
def Obligations.BuildMakesLeavesInSymbolOrder : Prop :=
  ∀ (s t : State), exec .build s = .next t → t.status = .ok →
    ∀ (sym : Symbol) (count : Nat), s.ft.read sym.toNat = some count →
      t.tm.read ((List.range sym.toNat).countP (fun i => (s.ft.read i).isSome)) =
        some { kind := .leaf, sym := sym, weight := count, left := 511#9, right := 511#9 }

/-- R95: a table of one entry gives the leaf as node 0 and the synthesised root as node 1. -/
def Obligations.BuildOfOneEntry : Prop :=
  ∀ (s : State) (sym : Symbol) (count : Nat),
    (∀ i, i < 256 → s.ft.read i = if i = sym.toNat then some count else none) →
    count ≤ 2 ^ s.params.weightWidth - 1 →
    ∃ t, exec .build s = .next t ∧ t.status = .ok ∧ t.root = 1#9 ∧ t.nnodes = 2#9 ∧
      t.tm.read 0 = some { kind := .leaf, sym := sym, weight := count, left := 511#9, right := 511#9 } ∧
      t.tm.read 1 = some { kind := .internal, sym := 0#8, weight := count, left := 0#9, right := 511#9 }

/-- R92: from a set of live nodes whose indices differ, the node extracted is one of them and comes before
every other in the order (weight, index). -/
def Obligations.ExtractMinTakesTheFirst : Prop :=
  ∀ q : List Live, q ≠ [] → q.Pairwise (fun x y => x.index ≠ y.index) →
    ∃ m rest, extractMin q = some (m, rest) ∧ q.Perm (m :: rest) ∧
      ∀ x ∈ rest, m.weight < x.weight ∨ (m.weight = x.weight ∧ m.index < x.index)

/-- R93: every internal node of a tree with two or more leaves has two children made before it, its weight
is their weights' sum, and the left child comes before the right in the order (weight, index). -/
def Obligations.BuildOrdersChildren : Prop :=
  ∀ (s t : State), exec .build s = .next t → t.status = .ok → 2 ≤ (presentEntries s.ft).length →
    ∀ i node, t.tm.read i = some node → node.kind = .internal →
      ∃ a b, t.tm.read node.left.toNat = some a ∧ t.tm.read node.right.toNat = some b ∧
        node.left.toNat < i ∧ node.right.toNat < i ∧ node.weight = a.weight + b.weight ∧
        (a.weight < b.weight ∨ (a.weight = b.weight ∧ node.left.toNat < node.right.toNat))

/-- R157: the root's weight is the sum of all present counts, and every internal node's weight the sum of
the weights of the leaves below it, as exact integers. -/
def Obligations.BuildConservesWeight : Prop :=
  ∀ (s t : State), exec .build s = .next t → t.status = .ok →
    ∃ T node, t.tm.read t.root.toNat = some node ∧ node.weight = totalCount (presentEntries s.ft) ∧
      treeOf t.tm t.root = some T ∧ T.weight = node.weight ∧ T.conserves ∧
      T.leaves.Perm (presentEntries s.ft)

/-- R100: the shape of every tree BUILD produces, from any state: as many leaves as present entries, the
shape of R30 (b), and every leaf's depth between 1 and max(1, N − 1). -/
def Obligations.BuildGivesTreeShape : Prop :=
  ∀ (s t : State), exec .build s = .next t → t.status = .ok →
    TreeShape t.params t.tm t.root t.nnodes ∧ leafCount t.tm = (presentEntries s.ft).length ∧
    ∃ T, treeOf t.tm t.root = some T ∧ ∀ c ∈ generateCodes T,
      1 ≤ c.2.length ∧ c.2.length ≤ max 1 ((presentEntries s.ft).length - 1)

/-- R159: BUILD on equal tables of chips with the same W_W gives equal statuses and, on status 0, equal
trees, whatever else the two states hold. -/
def Obligations.BuildIsAFunctionOfTheTable : Prop :=
  ∀ s s' : State, s.params.weightWidth = s'.params.weightWidth →
    (∀ i, i < 256 → s.ft.read i = s'.ft.read i) →
    ∃ t t', exec .build s = .next t ∧ exec .build s' = .next t' ∧ t.status = t'.status ∧
      (t.status = .ok → t.nnodes = t'.nnodes ∧ t.root = t'.root ∧ ∀ i, t.tm.read i = t'.tm.read i)

/-- R101, R60: BUILD leaves FT, SI, SI_LEN, BS, BS_LEN, SO and SO_LEN as they were, success or failure. -/
def Obligations.BuildFrame : Prop :=
  ∀ (s t : State), exec .build s = .next t →
    t = { s with
      status := t.status, treeValid := t.treeValid, ctValid := false, tm := t.tm, ct := [],
      root := t.root, nnodes := t.nnodes, draws := t.draws } ∧
    (∀ i, t.ft.read i = s.ft.read i ∧ t.si.read i = s.si.read i ∧ t.bs.read i = s.bs.read i ∧
      t.so.read i = s.so.read i)

/-! ## GEN -/

/-- R105, R109: GEN on a valid tree completes with status 0, and CT then holds, for every symbol with a
leaf, the path to it, and no entry for any other symbol; code digits at and above len are 0 (R80). -/
def Obligations.GenGivesThePaths : Prop :=
  ∀ s : State, Inv s → s.treeValid = true →
    ∃ t T, exec .gen s = .next t ∧ treeOf s.tm s.root = some T ∧
      t = { s with status := .ok, ctValid := true, ct := t.ct } ∧
      (∀ sym, t.codeIn sym = codeOf T sym) ∧
      (∀ i entry k, t.ct.read i = some entry → entry.len.toNat ≤ k → entry.code.getLsbD k = false)

/-- R111: GEN changes nothing but STATUS, CT_VALID and CT, success or failure. -/
def Obligations.GenFrame : Prop :=
  ∀ (s t : State), exec .gen s = .next t →
    t = { s with status := t.status, ctValid := t.ctValid, ct := t.ct } ∧
    (∀ i, t.ft.read i = s.ft.read i ∧ t.tm.read i = s.tm.read i ∧ t.si.read i = s.si.read i ∧
      t.bs.read i = s.bs.read i ∧ t.so.read i = s.so.read i)

/-- R156: after BUILD and GEN with status 0, no code is an initial part of another symbol's code. -/
def Obligations.CodesAreFreeOfInitialParts : Prop :=
  ∀ s t u : State, exec .build s = .next t → t.status = .ok → exec .gen t = .next u → u.status = .ok →
    ∀ x y p q, x ≠ y → u.codeIn x = some p → u.codeIn y = some q → ¬ p <+: q

/-- R162: after a successful BUILD, GEN succeeds; an entry of CT is valid exactly when the symbol was
present in FT, and then its code has 1 to 255 digits. -/
def Obligations.GenCoversThePresentSymbols : Prop :=
  ∀ s t : State, exec .build s = .next t → t.status = .ok →
    ∃ u, exec .gen t = .next u ∧ u.status = .ok ∧
      ∀ sym : Symbol, ((u.codeIn sym).isSome = true ↔ (s.ft.read sym.toNat).isSome = true) ∧
        ∀ p, u.codeIn sym = some p → 1 ≤ p.length ∧ p.length ≤ 255

/-- R108: after BUILD and GEN on a table of one entry, its symbol's code is "0" and no other symbol has
one. -/
def Obligations.OneSymbolCodeIsZero : Prop :=
  ∀ (s : State) (sym : Symbol) (count : Nat),
    (∀ i, i < 256 → s.ft.read i = if i = sym.toNat then some count else none) →
    count ≤ 2 ^ s.params.weightWidth - 1 →
    ∃ t u, exec .build s = .next t ∧ exec .gen t = .next u ∧ u.status = .ok ∧
      ∀ x, u.codeIn x = if x = sym then some [false] else none

/-! ## ENC -/

/-- R115, R118: ENC with a valid code table, every element of SI holding a symbol that has a code, and a
bitstream that fits, completes with status 0; the bitstream is the codes concatenated in order, BS holds no
value above it, and nothing else changes. -/
def Obligations.EncConcatenatesTheCodes : Prop :=
  ∀ (s : State) (symbols : List Symbol) (out : List Digit),
    s.params.wellFormed = true → s.ctValid = true → HoldsSymbols s symbols →
    encodeSequence s.codeIn symbols = some out → out.length ≤ s.params.bitCapacity →
    ∃ t, exec .enc s = .next t ∧ t = { s with status := .ok, bsLen := t.bsLen, bs := t.bs } ∧
      t.bsLen.toNat = out.length ∧ HoldsDigits t out ∧ ∀ j, out.length ≤ j → t.bs.read j = none

/-- R177, R116: LookupError only from ENC, with a valid code table, for a symbol of SI without a code; and,
every element of SI holding a value (R206), wherever such a symbol stands, with the bitstream then empty
and nothing else changed. -/
def Obligations.LookupErrorExactly : Prop :=
  ∀ s : State,
    (∀ i t, exec i s = .next t → t.status = .lookupError →
      i = .enc ∧ s.ctValid = true ∧
        ∃ k sym, k < s.siLen.toNat ∧ s.si.read k = some sym ∧ s.codeIn sym = none) ∧
    (∀ symbols, s.ctValid = true → HoldsSymbols s symbols → (∃ sym ∈ symbols, s.codeIn sym = none) →
      exec .enc s = .next { s with status := .lookupError, bsLen := 0#32, bs := [] })

/-- R119, R180: a bitstream longer than B_MAX, all symbols having codes, is CapacityExceeded: nothing is
truncated, the bitstream is empty and nothing else changes. -/
def Obligations.EncRefusesTooLongBitstreams : Prop :=
  ∀ (s : State) (symbols : List Symbol) (out : List Digit),
    s.ctValid = true → HoldsSymbols s symbols → encodeSequence s.codeIn symbols = some out →
    out.length > s.params.bitCapacity →
    exec .enc s = .next { s with status := .capacityExceeded, bsLen := 0#32, bs := [] }

/-- R206: ENC is refused, by name, at the first element of SI that holds no value, the ones before it
having codes; DEC on a tree with two or more leaves at the first digit of BS that holds no value. -/
def Obligations.ReadsOfNoValueAreRefused : Prop :=
  ∀ (s : State) (k : Nat),
    (s.ctValid = true → k < s.siLen.toNat → s.si.read k = none →
      (∀ j, j < k → ∃ sym, s.si.read j = some sym ∧ (s.codeIn sym).isSome = true) →
      exec .enc s = .refused (.noValue .si k)) ∧
    (Inv s → s.treeValid = true → 2 ≤ leafCount s.tm → k < s.bsLen.toNat → s.bs.read k = none →
      (∀ j, j < k → (s.bs.read j).isSome = true) →
      exec .dec s = .refused (.noValue .bs k))

/-- R163: after ENC with status 0, BS_LEN is the sum of the code lengths of the symbols of SI. -/
def Obligations.BitstreamLengthIsTheSum : Prop :=
  ∀ (s t : State), s.params.wellFormed = true → exec .enc s = .next t → t.status = .ok →
    ∃ symbols, HoldsSymbols s symbols ∧
      t.bsLen.toNat = (symbols.map (fun sym => ((s.codeIn sym).getD []).length)).sum

/-- R120, R121: ENC changes nothing but STATUS, BS_LEN and BS; on failure the bitstream is empty. -/
def Obligations.EncFrame : Prop :=
  ∀ (s t : State), exec .enc s = .next t →
    t = { s with status := t.status, bsLen := t.bsLen, bs := t.bs } ∧
    (∀ i, t.ft.read i = s.ft.read i ∧ t.tm.read i = s.tm.read i ∧ t.ct.read i = s.ct.read i ∧
      t.si.read i = s.si.read i ∧ t.so.read i = s.so.read i) ∧
    (t.status ≠ .ok → t.bsLen = 0#32 ∧ ∀ i, t.bs.read i = none)

/-! ## DEC -/

/-- R125, R126, R127, R131: DEC on a valid tree, every digit of BS holding a value, gives exactly what
`decode` of R125 gives on the tree in TM: its symbols in SO, or CapacityExceeded when they are more than
L_MAX, or its failure with SO empty; nothing else changes. -/
def Obligations.DecRefinesDecode : Prop :=
  ∀ (s : State) (digits : List Digit), Inv s → s.treeValid = true → HoldsDigits s digits →
    ∃ t T, exec .dec s = .next t ∧ treeOf s.tm s.root = some T ∧
      t = { s with status := t.status, soLen := t.soLen, so := t.so } ∧
      (match decodeSequence T digits with
        | .ok out =>
          if out.length ≤ s.params.symbolCapacity then
            t.status = .ok ∧ t.soLen.toNat = out.length ∧ HoldsOutput t out
          else t.status = .capacityExceeded ∧ t.soLen = 0#32 ∧ t.so = []
        | .error e => t.status = e ∧ t.soLen = 0#32 ∧ t.so = [])

/-- R125, R130: DEC of a bitstream that is the codes of a sequence, wherever it came from, completes with
status 0 and that sequence in SO, if it fits; nothing else changes. -/
def Obligations.DecRecoversTheSymbols : Prop :=
  ∀ (s : State) (symbols : List Symbol) (digits : List Digit), Inv s → s.ctValid = true →
    encodeSequence s.codeIn symbols = some digits → HoldsDigits s digits →
    symbols.length ≤ s.params.symbolCapacity →
    ∃ t, exec .dec s = .next t ∧ t = { s with status := .ok, soLen := t.soLen, so := t.so } ∧
      t.soLen.toNat = symbols.length ∧ HoldsOutput t symbols

/-- R128: on a valid tree NullTraversal is raised exactly when the tree has one leaf and the bitstream
contains a digit 1. -/
def Obligations.NullTraversalExactly : Prop :=
  ∀ (s : State) (digits : List Digit), Inv s → s.treeValid = true → HoldsDigits s digits →
    ((∃ t, exec .dec s = .next t ∧ t.status = .nullTraversal) ↔
      leafCount s.tm = 1 ∧ true ∈ digits)

/-- R127, R178: a bitstream of complete codes followed by a part of a code, neither empty nor whole, is a
MalformedStream: SO is empty and nothing else changes. -/
def Obligations.TruncatedStreamIsMalformed : Prop :=
  ∀ (s : State) (symbols : List Symbol) (sym : Symbol) (whole cut lost : List Digit),
    Inv s → s.ctValid = true → encodeSequence s.codeIn symbols = some whole →
    s.codeIn sym = some (cut ++ lost) → cut ≠ [] → lost ≠ [] → HoldsDigits s (whole ++ cut) →
    exec .dec s = .next { s with status := .malformedStream, soLen := 0#32, so := [] }

/-- R129: DEC of the empty bitstream on a valid tree succeeds with the empty sequence. That the entries of
SO stay as they were is the model's reading of R60 and R57 (d) (notes/assumptions/9.md). -/
def Obligations.DecOfTheEmptyStream : Prop :=
  ∀ s : State, s.treeValid = true → s.bsLen = 0#32 →
    exec .dec s = .next { s with status := .ok, soLen := 0#32 }

/-- R133, R132: DEC changes nothing but STATUS, SO_LEN and SO; on success the entries of SO above the
decoded sequence read as before (the model's reading of R60 and R57 (d), notes/assumptions/9.md); on failure
SO is empty. -/
def Obligations.DecFrame : Prop :=
  ∀ (s t : State), exec .dec s = .next t →
    t = { s with status := t.status, soLen := t.soLen, so := t.so } ∧
    (∀ i, t.ft.read i = s.ft.read i ∧ t.tm.read i = s.tm.read i ∧ t.ct.read i = s.ct.read i ∧
      t.si.read i = s.si.read i ∧ t.bs.read i = s.bs.read i) ∧
    (t.status = .ok → ∀ out, decodeSlots s.tm s.root 0 s.root s.bitSlots = .ok out →
      ∀ i, out.length ≤ i → t.so.read i = s.so.read i) ∧
    (t.status ≠ .ok → t.soLen = 0#32 ∧ ∀ i, t.so.read i = none)

/-- R159, R14: GEN, ENC and DEC are functions of the operands they read: on equal operands they give equal
statuses and equal results, whatever else the two states hold. -/
def Obligations.CommandsDependOnTheirOperands : Prop :=
  ∀ s s' t t' : State,
    (s.treeValid = s'.treeValid → s.tm = s'.tm → s.root = s'.root →
      exec .gen s = .next t → exec .gen s' = .next t' →
      t.status = t'.status ∧ t.ctValid = t'.ctValid ∧ t.ct = t'.ct) ∧
    (s.ctValid = s'.ctValid → s.ct = s'.ct → s.symbolSlots = s'.symbolSlots →
      s.params.bitCapacity = s'.params.bitCapacity →
      exec .enc s = .next t → exec .enc s' = .next t' →
      t.status = t'.status ∧ t.bsLen = t'.bsLen ∧ t.bs = t'.bs) ∧
    (s.treeValid = s'.treeValid → s.tm = s'.tm → s.root = s'.root → s.bitSlots = s'.bitSlots →
      s.params.symbolCapacity = s'.params.symbolCapacity →
      exec .dec s = .next t → exec .dec s' = .next t' →
      t.status = t'.status ∧ t.soLen = t'.soLen ∧
        t.so.slots t.soLen.toNat = t'.so.slots t'.soLen.toNat)

/-! ## END -/

/-- R140: END completes in every state with status 0: no tree, no code table, and FT, SI, BS, SO and the
lengths as they were. -/
def Obligations.EndClosesTheSession : Prop :=
  ∀ s : State, ∃ t, exec .endSession s = .next t ∧ NoTree t ∧ NoCodes t ∧
    t = { s with
      status := .ok, treeValid := false, ctValid := false, tm := [], ct := [],
      root := t.root, nnodes := t.nnodes, draws := t.draws }

/-! ## The laws the four units satisfy together -/

/-- R166: decoding inverts encoding for every sequence over the table's keys: ENC and then DEC give the
sequence of SI in SO. -/
def Obligations.DecodingInvertsEncoding : Prop :=
  ∀ (s : State) (symbols : List Symbol) (out : List Digit),
    Inv s → s.ctValid = true → HoldsSymbols s symbols →
    encodeSequence s.codeIn symbols = some out → out.length ≤ s.params.bitCapacity →
    ∃ t u, exec .enc s = .next t ∧ t.status = .ok ∧ exec .dec t = .next u ∧ u.status = .ok ∧
      u.soLen = s.siLen ∧ HoldsOutput u symbols

/-- R155: the round trip. With FT the frequency table of a sequence that is not empty and SI that sequence,
BUILD and GEN succeed, every symbol has a code, and if the bitstream fits, ENC and DEC succeed and SO is
SI, element by element. -/
def Obligations.RoundTrip : Prop :=
  ∀ (s : State) (symbols : List Symbol),
    s.params.wellFormed = true → symbols ≠ [] → symbols.length ≤ s.params.symbolCapacity →
    symbols.length ≤ 2 ^ s.params.weightWidth - 1 →
    (∀ i, i < 256 → s.ft.read i = (frequencyTable symbols).read i) → HoldsSymbols s symbols →
    ∃ t u out, exec .build s = .next t ∧ t.status = .ok ∧ exec .gen t = .next u ∧ u.status = .ok ∧
      encodeSequence u.codeIn symbols = some out ∧
      (out.length ≤ s.params.bitCapacity →
        ∃ v w, exec .enc u = .next v ∧ v.status = .ok ∧ exec .dec v = .next w ∧ w.status = .ok ∧
          w.soLen = w.siLen ∧ ∀ i, i < w.siLen.toNat → w.so.read i = w.si.read i)

/-- R160: for two or more present symbols, no binary tree with exactly those leaves has a smaller weighted
sum of leaf depths than the tree BUILD makes; for one symbol the sum is its count times 1. -/
def Obligations.BuildIsOptimal : Prop :=
  ∀ (s t : State) (T : Tree), exec .build s = .next t → t.status = .ok →
    treeOf t.tm t.root = some T →
    (2 ≤ (presentEntries s.ft).length → ∀ other : Tree,
      other.leaves.Perm (presentEntries s.ft) → T.weightedDepth 0 ≤ other.weightedDepth 0) ∧
    (∀ e, presentEntries s.ft = [e] → T.weightedDepth 0 = e.2 * 1)

/-- R161: a symbol with a greater count has a code no longer than one with a lesser count. -/
def Obligations.FrequentSymbolsHaveShortCodes : Prop :=
  ∀ (s t u : State) (x y : Symbol) (m n : Nat) (p q : List Digit),
    exec .build s = .next t → t.status = .ok → exec .gen t = .next u → u.status = .ok →
    s.ft.read x.toNat = some m → s.ft.read y.toNat = some n → m > n →
    u.codeIn x = some p → u.codeIn y = some q → p.length ≤ q.length

/-! ## Scripts -/

/-- R84, R208: `LDFT`, from any state with nothing else pending, makes FT exactly the given table, whatever
it held before, and changes nothing else but the answer. -/
def Obligations.LdftLoadsExactlyTheTable : Prop :=
  ∀ (s : State) (table : List (Symbol × Nat)),
    (∀ e ∈ table, e.2 < 2 ^ s.params.weightWidth) →
    ∃ t, core.run 256 (s.withScript [.ldft table]) = .next t ∧
      t = { s with ft := t.ft, pending := [], response := some ⟨false, []⟩ } ∧
      ∀ sym : Symbol, t.ft.read sym.toNat = table.lookup sym

/-- R84, R143: `LDSI` and `LDBS` of a sequence that fits make it the encoder's input, or the decoder's; every
element at or above it reads as before, and nothing else changes but the answer. -/
def Obligations.LoadsGiveTheSequence : Prop :=
  ∀ (s : State) (symbols : List Symbol) (digits : List Digit), s.params.wellFormed = true →
    (symbols.length ≤ s.params.symbolCapacity →
      ∃ t, core.run (symbols.length + 1) (s.withScript [.ldsi symbols]) = .next t ∧
        HoldsSymbols t symbols ∧ t.siLen.toNat = symbols.length ∧
        (∀ i, symbols.length ≤ i → t.si.read i = s.si.read i) ∧
        t = { s with si := t.si, siLen := t.siLen, pending := [], response := some ⟨false, []⟩ }) ∧
    (digits.length ≤ s.params.bitCapacity →
      ∃ t, core.run (digits.length + 1) (s.withScript [.ldbs digits]) = .next t ∧
        HoldsDigits t digits ∧ t.bsLen.toNat = digits.length ∧
        (∀ i, digits.length ≤ i → t.bs.read i = s.bs.read i) ∧
        t = { s with bs := t.bs, bsLen := t.bsLen, pending := [], response := some ⟨false, []⟩ })

/-! ## The contract of the external counter -/

/-- R170: the frequency table of a sequence maps each symbol that occurs to the number of times it occurs,
and its counts add up to the sequence's length. -/
def Obligations.CountsAreOccurrences : Prop :=
  ∀ symbols : List Symbol,
    (∀ sym : Symbol, (frequencyTable symbols).read sym.toNat =
      if sym ∈ symbols then some (symbols.count sym) else none) ∧
    totalCount (presentEntries (frequencyTable symbols)) = symbols.length ∧
    frequencyTable [] = []
end

