-- ==== Sys2Proof/Laws/State.lean ====
section
/-! SUPPORT. Each update of the state, field by field: one lemma per field per update. -/

namespace Sys2Proof.Machine

variable (s : State)

/-! ### endWith -/

@[simp] theorem State.endWith_params (e : Status) : (s.endWith e).params = s.params := rfl
@[simp] theorem State.endWith_status (e : Status) : (s.endWith e).status = e := rfl
@[simp] theorem State.endWith_treeValid (e : Status) : (s.endWith e).treeValid = s.treeValid := rfl
@[simp] theorem State.endWith_ctValid (e : Status) : (s.endWith e).ctValid = s.ctValid := rfl
@[simp] theorem State.endWith_root (e : Status) : (s.endWith e).root = s.root := rfl
@[simp] theorem State.endWith_nnodes (e : Status) : (s.endWith e).nnodes = s.nnodes := rfl
@[simp] theorem State.endWith_siLen (e : Status) : (s.endWith e).siLen = s.siLen := rfl
@[simp] theorem State.endWith_bsLen (e : Status) : (s.endWith e).bsLen = s.bsLen := rfl
@[simp] theorem State.endWith_soLen (e : Status) : (s.endWith e).soLen = s.soLen := rfl
@[simp] theorem State.endWith_ft (e : Status) : (s.endWith e).ft = s.ft := rfl
@[simp] theorem State.endWith_tm (e : Status) : (s.endWith e).tm = s.tm := rfl
@[simp] theorem State.endWith_ct (e : Status) : (s.endWith e).ct = s.ct := rfl
@[simp] theorem State.endWith_si (e : Status) : (s.endWith e).si = s.si := rfl
@[simp] theorem State.endWith_bs (e : Status) : (s.endWith e).bs = s.bs := rfl
@[simp] theorem State.endWith_so (e : Status) : (s.endWith e).so = s.so := rfl
@[simp] theorem State.endWith_draws (e : Status) : (s.endWith e).draws = s.draws := rfl
@[simp] theorem State.endWith_pending (e : Status) : (s.endWith e).pending = s.pending := rfl
@[simp] theorem State.endWith_response (e : Status) : (s.endWith e).response = s.response := rfl

/-! ### respond -/

@[simp] theorem State.respond_params (r : Response) : (s.respond r).params = s.params := rfl
@[simp] theorem State.respond_status (r : Response) : (s.respond r).status = s.status := rfl
@[simp] theorem State.respond_treeValid (r : Response) : (s.respond r).treeValid = s.treeValid := rfl
@[simp] theorem State.respond_ctValid (r : Response) : (s.respond r).ctValid = s.ctValid := rfl
@[simp] theorem State.respond_root (r : Response) : (s.respond r).root = s.root := rfl
@[simp] theorem State.respond_nnodes (r : Response) : (s.respond r).nnodes = s.nnodes := rfl
@[simp] theorem State.respond_siLen (r : Response) : (s.respond r).siLen = s.siLen := rfl
@[simp] theorem State.respond_bsLen (r : Response) : (s.respond r).bsLen = s.bsLen := rfl
@[simp] theorem State.respond_soLen (r : Response) : (s.respond r).soLen = s.soLen := rfl
@[simp] theorem State.respond_ft (r : Response) : (s.respond r).ft = s.ft := rfl
@[simp] theorem State.respond_tm (r : Response) : (s.respond r).tm = s.tm := rfl
@[simp] theorem State.respond_ct (r : Response) : (s.respond r).ct = s.ct := rfl
@[simp] theorem State.respond_si (r : Response) : (s.respond r).si = s.si := rfl
@[simp] theorem State.respond_bs (r : Response) : (s.respond r).bs = s.bs := rfl
@[simp] theorem State.respond_so (r : Response) : (s.respond r).so = s.so := rfl
@[simp] theorem State.respond_draws (r : Response) : (s.respond r).draws = s.draws := rfl
@[simp] theorem State.respond_pending (r : Response) : (s.respond r).pending = s.pending := rfl
@[simp] theorem State.respond_response (r : Response) : (s.respond r).response = some r := rfl

/-! ### dropCodes -/

@[simp] theorem State.dropCodes_params : s.dropCodes.params = s.params := rfl
@[simp] theorem State.dropCodes_status : s.dropCodes.status = s.status := rfl
@[simp] theorem State.dropCodes_treeValid : s.dropCodes.treeValid = s.treeValid := rfl
@[simp] theorem State.dropCodes_ctValid : s.dropCodes.ctValid = false := rfl
@[simp] theorem State.dropCodes_root : s.dropCodes.root = s.root := rfl
@[simp] theorem State.dropCodes_nnodes : s.dropCodes.nnodes = s.nnodes := rfl
@[simp] theorem State.dropCodes_siLen : s.dropCodes.siLen = s.siLen := rfl
@[simp] theorem State.dropCodes_bsLen : s.dropCodes.bsLen = s.bsLen := rfl
@[simp] theorem State.dropCodes_soLen : s.dropCodes.soLen = s.soLen := rfl
@[simp] theorem State.dropCodes_ft : s.dropCodes.ft = s.ft := rfl
@[simp] theorem State.dropCodes_tm : s.dropCodes.tm = s.tm := rfl
@[simp] theorem State.dropCodes_ct : s.dropCodes.ct = [] := rfl
@[simp] theorem State.dropCodes_si : s.dropCodes.si = s.si := rfl
@[simp] theorem State.dropCodes_bs : s.dropCodes.bs = s.bs := rfl
@[simp] theorem State.dropCodes_so : s.dropCodes.so = s.so := rfl
@[simp] theorem State.dropCodes_draws : s.dropCodes.draws = s.draws := rfl
@[simp] theorem State.dropCodes_pending : s.dropCodes.pending = s.pending := rfl
@[simp] theorem State.dropCodes_response : s.dropCodes.response = s.response := rfl

/-! ### dropTree -/

@[simp] theorem State.dropTree_params : s.dropTree.params = s.params := rfl
@[simp] theorem State.dropTree_status : s.dropTree.status = s.status := rfl
@[simp] theorem State.dropTree_treeValid : s.dropTree.treeValid = false := rfl
@[simp] theorem State.dropTree_ctValid : s.dropTree.ctValid = s.ctValid := rfl
@[simp] theorem State.dropTree_root : s.dropTree.root = Config.freeRoot s.draws := rfl
@[simp] theorem State.dropTree_nnodes : s.dropTree.nnodes = Config.freeNodeCount s.draws := rfl
@[simp] theorem State.dropTree_siLen : s.dropTree.siLen = s.siLen := rfl
@[simp] theorem State.dropTree_bsLen : s.dropTree.bsLen = s.bsLen := rfl
@[simp] theorem State.dropTree_soLen : s.dropTree.soLen = s.soLen := rfl
@[simp] theorem State.dropTree_ft : s.dropTree.ft = s.ft := rfl
@[simp] theorem State.dropTree_tm : s.dropTree.tm = [] := rfl
@[simp] theorem State.dropTree_ct : s.dropTree.ct = s.ct := rfl
@[simp] theorem State.dropTree_si : s.dropTree.si = s.si := rfl
@[simp] theorem State.dropTree_bs : s.dropTree.bs = s.bs := rfl
@[simp] theorem State.dropTree_so : s.dropTree.so = s.so := rfl
@[simp] theorem State.dropTree_draws : s.dropTree.draws = s.draws + 1 := rfl
@[simp] theorem State.dropTree_pending : s.dropTree.pending = s.pending := rfl
@[simp] theorem State.dropTree_response : s.dropTree.response = s.response := rfl

/-! ### dropBits -/

@[simp] theorem State.dropBits_params : s.dropBits.params = s.params := rfl
@[simp] theorem State.dropBits_status : s.dropBits.status = s.status := rfl
@[simp] theorem State.dropBits_treeValid : s.dropBits.treeValid = s.treeValid := rfl
@[simp] theorem State.dropBits_ctValid : s.dropBits.ctValid = s.ctValid := rfl
@[simp] theorem State.dropBits_root : s.dropBits.root = s.root := rfl
@[simp] theorem State.dropBits_nnodes : s.dropBits.nnodes = s.nnodes := rfl
@[simp] theorem State.dropBits_siLen : s.dropBits.siLen = s.siLen := rfl
@[simp] theorem State.dropBits_bsLen : s.dropBits.bsLen = 0#32 := rfl
@[simp] theorem State.dropBits_soLen : s.dropBits.soLen = s.soLen := rfl
@[simp] theorem State.dropBits_ft : s.dropBits.ft = s.ft := rfl
@[simp] theorem State.dropBits_tm : s.dropBits.tm = s.tm := rfl
@[simp] theorem State.dropBits_ct : s.dropBits.ct = s.ct := rfl
@[simp] theorem State.dropBits_si : s.dropBits.si = s.si := rfl
@[simp] theorem State.dropBits_bs : s.dropBits.bs = [] := rfl
@[simp] theorem State.dropBits_so : s.dropBits.so = s.so := rfl
@[simp] theorem State.dropBits_draws : s.dropBits.draws = s.draws := rfl
@[simp] theorem State.dropBits_pending : s.dropBits.pending = s.pending := rfl
@[simp] theorem State.dropBits_response : s.dropBits.response = s.response := rfl

/-! ### dropOutput -/

@[simp] theorem State.dropOutput_params : s.dropOutput.params = s.params := rfl
@[simp] theorem State.dropOutput_status : s.dropOutput.status = s.status := rfl
@[simp] theorem State.dropOutput_treeValid : s.dropOutput.treeValid = s.treeValid := rfl
@[simp] theorem State.dropOutput_ctValid : s.dropOutput.ctValid = s.ctValid := rfl
@[simp] theorem State.dropOutput_root : s.dropOutput.root = s.root := rfl
@[simp] theorem State.dropOutput_nnodes : s.dropOutput.nnodes = s.nnodes := rfl
@[simp] theorem State.dropOutput_siLen : s.dropOutput.siLen = s.siLen := rfl
@[simp] theorem State.dropOutput_bsLen : s.dropOutput.bsLen = s.bsLen := rfl
@[simp] theorem State.dropOutput_soLen : s.dropOutput.soLen = 0#32 := rfl
@[simp] theorem State.dropOutput_ft : s.dropOutput.ft = s.ft := rfl
@[simp] theorem State.dropOutput_tm : s.dropOutput.tm = s.tm := rfl
@[simp] theorem State.dropOutput_ct : s.dropOutput.ct = s.ct := rfl
@[simp] theorem State.dropOutput_si : s.dropOutput.si = s.si := rfl
@[simp] theorem State.dropOutput_bs : s.dropOutput.bs = s.bs := rfl
@[simp] theorem State.dropOutput_so : s.dropOutput.so = [] := rfl
@[simp] theorem State.dropOutput_draws : s.dropOutput.draws = s.draws := rfl
@[simp] theorem State.dropOutput_pending : s.dropOutput.pending = s.pending := rfl
@[simp] theorem State.dropOutput_response : s.dropOutput.response = s.response := rfl

/-! ### putTree -/

@[simp] theorem State.putTree_params (ns : List TreeNode) : (s.putTree ns).params = s.params := rfl
@[simp] theorem State.putTree_status (ns : List TreeNode) : (s.putTree ns).status = s.status := rfl
@[simp] theorem State.putTree_treeValid (ns : List TreeNode) : (s.putTree ns).treeValid = true := rfl
@[simp] theorem State.putTree_ctValid (ns : List TreeNode) : (s.putTree ns).ctValid = s.ctValid := rfl
@[simp] theorem State.putTree_root (ns : List TreeNode) : (s.putTree ns).root = BitVec.ofNat 9 (ns.length - 1) := rfl
@[simp] theorem State.putTree_nnodes (ns : List TreeNode) : (s.putTree ns).nnodes = BitVec.ofNat 9 ns.length := rfl
@[simp] theorem State.putTree_siLen (ns : List TreeNode) : (s.putTree ns).siLen = s.siLen := rfl
@[simp] theorem State.putTree_bsLen (ns : List TreeNode) : (s.putTree ns).bsLen = s.bsLen := rfl
@[simp] theorem State.putTree_soLen (ns : List TreeNode) : (s.putTree ns).soLen = s.soLen := rfl
@[simp] theorem State.putTree_ft (ns : List TreeNode) : (s.putTree ns).ft = s.ft := rfl
@[simp] theorem State.putTree_tm (ns : List TreeNode) : (s.putTree ns).tm = Store.ofList ns := rfl
@[simp] theorem State.putTree_ct (ns : List TreeNode) : (s.putTree ns).ct = s.ct := rfl
@[simp] theorem State.putTree_si (ns : List TreeNode) : (s.putTree ns).si = s.si := rfl
@[simp] theorem State.putTree_bs (ns : List TreeNode) : (s.putTree ns).bs = s.bs := rfl
@[simp] theorem State.putTree_so (ns : List TreeNode) : (s.putTree ns).so = s.so := rfl
@[simp] theorem State.putTree_draws (ns : List TreeNode) : (s.putTree ns).draws = s.draws := rfl
@[simp] theorem State.putTree_pending (ns : List TreeNode) : (s.putTree ns).pending = s.pending := rfl
@[simp] theorem State.putTree_response (ns : List TreeNode) : (s.putTree ns).response = s.response := rfl

/-! ### putCodes -/

@[simp] theorem State.putCodes_params (c : Store CodeEntry) : (s.putCodes c).params = s.params := rfl
@[simp] theorem State.putCodes_status (c : Store CodeEntry) : (s.putCodes c).status = s.status := rfl
@[simp] theorem State.putCodes_treeValid (c : Store CodeEntry) : (s.putCodes c).treeValid = s.treeValid := rfl
@[simp] theorem State.putCodes_ctValid (c : Store CodeEntry) : (s.putCodes c).ctValid = true := rfl
@[simp] theorem State.putCodes_root (c : Store CodeEntry) : (s.putCodes c).root = s.root := rfl
@[simp] theorem State.putCodes_nnodes (c : Store CodeEntry) : (s.putCodes c).nnodes = s.nnodes := rfl
@[simp] theorem State.putCodes_siLen (c : Store CodeEntry) : (s.putCodes c).siLen = s.siLen := rfl
@[simp] theorem State.putCodes_bsLen (c : Store CodeEntry) : (s.putCodes c).bsLen = s.bsLen := rfl
@[simp] theorem State.putCodes_soLen (c : Store CodeEntry) : (s.putCodes c).soLen = s.soLen := rfl
@[simp] theorem State.putCodes_ft (c : Store CodeEntry) : (s.putCodes c).ft = s.ft := rfl
@[simp] theorem State.putCodes_tm (c : Store CodeEntry) : (s.putCodes c).tm = s.tm := rfl
@[simp] theorem State.putCodes_ct (c : Store CodeEntry) : (s.putCodes c).ct = c := rfl
@[simp] theorem State.putCodes_si (c : Store CodeEntry) : (s.putCodes c).si = s.si := rfl
@[simp] theorem State.putCodes_bs (c : Store CodeEntry) : (s.putCodes c).bs = s.bs := rfl
@[simp] theorem State.putCodes_so (c : Store CodeEntry) : (s.putCodes c).so = s.so := rfl
@[simp] theorem State.putCodes_draws (c : Store CodeEntry) : (s.putCodes c).draws = s.draws := rfl
@[simp] theorem State.putCodes_pending (c : Store CodeEntry) : (s.putCodes c).pending = s.pending := rfl
@[simp] theorem State.putCodes_response (c : Store CodeEntry) : (s.putCodes c).response = s.response := rfl

/-! ### putBits -/

@[simp] theorem State.putBits_params (out : List Digit) : (s.putBits out).params = s.params := rfl
@[simp] theorem State.putBits_status (out : List Digit) : (s.putBits out).status = s.status := rfl
@[simp] theorem State.putBits_treeValid (out : List Digit) : (s.putBits out).treeValid = s.treeValid := rfl
@[simp] theorem State.putBits_ctValid (out : List Digit) : (s.putBits out).ctValid = s.ctValid := rfl
@[simp] theorem State.putBits_root (out : List Digit) : (s.putBits out).root = s.root := rfl
@[simp] theorem State.putBits_nnodes (out : List Digit) : (s.putBits out).nnodes = s.nnodes := rfl
@[simp] theorem State.putBits_siLen (out : List Digit) : (s.putBits out).siLen = s.siLen := rfl
@[simp] theorem State.putBits_bsLen (out : List Digit) : (s.putBits out).bsLen = BitVec.ofNat 32 out.length := rfl
@[simp] theorem State.putBits_soLen (out : List Digit) : (s.putBits out).soLen = s.soLen := rfl
@[simp] theorem State.putBits_ft (out : List Digit) : (s.putBits out).ft = s.ft := rfl
@[simp] theorem State.putBits_tm (out : List Digit) : (s.putBits out).tm = s.tm := rfl
@[simp] theorem State.putBits_ct (out : List Digit) : (s.putBits out).ct = s.ct := rfl
@[simp] theorem State.putBits_si (out : List Digit) : (s.putBits out).si = s.si := rfl
@[simp] theorem State.putBits_bs (out : List Digit) : (s.putBits out).bs = Store.ofList out := rfl
@[simp] theorem State.putBits_so (out : List Digit) : (s.putBits out).so = s.so := rfl
@[simp] theorem State.putBits_draws (out : List Digit) : (s.putBits out).draws = s.draws := rfl
@[simp] theorem State.putBits_pending (out : List Digit) : (s.putBits out).pending = s.pending := rfl
@[simp] theorem State.putBits_response (out : List Digit) : (s.putBits out).response = s.response := rfl

/-! ### putOutput -/

@[simp] theorem State.putOutput_params (out : List Symbol) : (s.putOutput out).params = s.params := rfl
@[simp] theorem State.putOutput_status (out : List Symbol) : (s.putOutput out).status = s.status := rfl
@[simp] theorem State.putOutput_treeValid (out : List Symbol) : (s.putOutput out).treeValid = s.treeValid := rfl
@[simp] theorem State.putOutput_ctValid (out : List Symbol) : (s.putOutput out).ctValid = s.ctValid := rfl
@[simp] theorem State.putOutput_root (out : List Symbol) : (s.putOutput out).root = s.root := rfl
@[simp] theorem State.putOutput_nnodes (out : List Symbol) : (s.putOutput out).nnodes = s.nnodes := rfl
@[simp] theorem State.putOutput_siLen (out : List Symbol) : (s.putOutput out).siLen = s.siLen := rfl
@[simp] theorem State.putOutput_bsLen (out : List Symbol) : (s.putOutput out).bsLen = s.bsLen := rfl
@[simp] theorem State.putOutput_soLen (out : List Symbol) : (s.putOutput out).soLen = BitVec.ofNat 32 out.length := rfl
@[simp] theorem State.putOutput_ft (out : List Symbol) : (s.putOutput out).ft = s.ft := rfl
@[simp] theorem State.putOutput_tm (out : List Symbol) : (s.putOutput out).tm = s.tm := rfl
@[simp] theorem State.putOutput_ct (out : List Symbol) : (s.putOutput out).ct = s.ct := rfl
@[simp] theorem State.putOutput_si (out : List Symbol) : (s.putOutput out).si = s.si := rfl
@[simp] theorem State.putOutput_bs (out : List Symbol) : (s.putOutput out).bs = s.bs := rfl
@[simp] theorem State.putOutput_so (out : List Symbol) : (s.putOutput out).so = s.so.overlay out := rfl
@[simp] theorem State.putOutput_draws (out : List Symbol) : (s.putOutput out).draws = s.draws := rfl
@[simp] theorem State.putOutput_pending (out : List Symbol) : (s.putOutput out).pending = s.pending := rfl
@[simp] theorem State.putOutput_response (out : List Symbol) : (s.putOutput out).response = s.response := rfl

/-! ### writeCount -/

@[simp] theorem State.writeCount_params (i n : Nat) : (s.writeCount i n).params = s.params := rfl
@[simp] theorem State.writeCount_status (i n : Nat) : (s.writeCount i n).status = s.status := rfl
@[simp] theorem State.writeCount_treeValid (i n : Nat) : (s.writeCount i n).treeValid = s.treeValid := rfl
@[simp] theorem State.writeCount_ctValid (i n : Nat) : (s.writeCount i n).ctValid = s.ctValid := rfl
@[simp] theorem State.writeCount_root (i n : Nat) : (s.writeCount i n).root = s.root := rfl
@[simp] theorem State.writeCount_nnodes (i n : Nat) : (s.writeCount i n).nnodes = s.nnodes := rfl
@[simp] theorem State.writeCount_siLen (i n : Nat) : (s.writeCount i n).siLen = s.siLen := rfl
@[simp] theorem State.writeCount_bsLen (i n : Nat) : (s.writeCount i n).bsLen = s.bsLen := rfl
@[simp] theorem State.writeCount_soLen (i n : Nat) : (s.writeCount i n).soLen = s.soLen := rfl
@[simp] theorem State.writeCount_ft (i n : Nat) : (s.writeCount i n).ft = s.ft.write i n := rfl
@[simp] theorem State.writeCount_tm (i n : Nat) : (s.writeCount i n).tm = s.tm := rfl
@[simp] theorem State.writeCount_ct (i n : Nat) : (s.writeCount i n).ct = s.ct := rfl
@[simp] theorem State.writeCount_si (i n : Nat) : (s.writeCount i n).si = s.si := rfl
@[simp] theorem State.writeCount_bs (i n : Nat) : (s.writeCount i n).bs = s.bs := rfl
@[simp] theorem State.writeCount_so (i n : Nat) : (s.writeCount i n).so = s.so := rfl
@[simp] theorem State.writeCount_draws (i n : Nat) : (s.writeCount i n).draws = s.draws := rfl
@[simp] theorem State.writeCount_pending (i n : Nat) : (s.writeCount i n).pending = s.pending := rfl
@[simp] theorem State.writeCount_response (i n : Nat) : (s.writeCount i n).response = s.response := rfl

/-! ### removeCount -/

@[simp] theorem State.removeCount_params (i : Nat) : (s.removeCount i).params = s.params := rfl
@[simp] theorem State.removeCount_status (i : Nat) : (s.removeCount i).status = s.status := rfl
@[simp] theorem State.removeCount_treeValid (i : Nat) : (s.removeCount i).treeValid = s.treeValid := rfl
@[simp] theorem State.removeCount_ctValid (i : Nat) : (s.removeCount i).ctValid = s.ctValid := rfl
@[simp] theorem State.removeCount_root (i : Nat) : (s.removeCount i).root = s.root := rfl
@[simp] theorem State.removeCount_nnodes (i : Nat) : (s.removeCount i).nnodes = s.nnodes := rfl
@[simp] theorem State.removeCount_siLen (i : Nat) : (s.removeCount i).siLen = s.siLen := rfl
@[simp] theorem State.removeCount_bsLen (i : Nat) : (s.removeCount i).bsLen = s.bsLen := rfl
@[simp] theorem State.removeCount_soLen (i : Nat) : (s.removeCount i).soLen = s.soLen := rfl
@[simp] theorem State.removeCount_ft (i : Nat) : (s.removeCount i).ft = s.ft.erase i := rfl
@[simp] theorem State.removeCount_tm (i : Nat) : (s.removeCount i).tm = s.tm := rfl
@[simp] theorem State.removeCount_ct (i : Nat) : (s.removeCount i).ct = s.ct := rfl
@[simp] theorem State.removeCount_si (i : Nat) : (s.removeCount i).si = s.si := rfl
@[simp] theorem State.removeCount_bs (i : Nat) : (s.removeCount i).bs = s.bs := rfl
@[simp] theorem State.removeCount_so (i : Nat) : (s.removeCount i).so = s.so := rfl
@[simp] theorem State.removeCount_draws (i : Nat) : (s.removeCount i).draws = s.draws := rfl
@[simp] theorem State.removeCount_pending (i : Nat) : (s.removeCount i).pending = s.pending := rfl
@[simp] theorem State.removeCount_response (i : Nat) : (s.removeCount i).response = s.response := rfl

/-! ### writeSymbol -/

@[simp] theorem State.writeSymbol_params (i : Nat) (a : Symbol) : (s.writeSymbol i a).params = s.params := rfl
@[simp] theorem State.writeSymbol_status (i : Nat) (a : Symbol) : (s.writeSymbol i a).status = s.status := rfl
@[simp] theorem State.writeSymbol_treeValid (i : Nat) (a : Symbol) : (s.writeSymbol i a).treeValid = s.treeValid := rfl
@[simp] theorem State.writeSymbol_ctValid (i : Nat) (a : Symbol) : (s.writeSymbol i a).ctValid = s.ctValid := rfl
@[simp] theorem State.writeSymbol_root (i : Nat) (a : Symbol) : (s.writeSymbol i a).root = s.root := rfl
@[simp] theorem State.writeSymbol_nnodes (i : Nat) (a : Symbol) : (s.writeSymbol i a).nnodes = s.nnodes := rfl
@[simp] theorem State.writeSymbol_siLen (i : Nat) (a : Symbol) : (s.writeSymbol i a).siLen = s.siLen := rfl
@[simp] theorem State.writeSymbol_bsLen (i : Nat) (a : Symbol) : (s.writeSymbol i a).bsLen = s.bsLen := rfl
@[simp] theorem State.writeSymbol_soLen (i : Nat) (a : Symbol) : (s.writeSymbol i a).soLen = s.soLen := rfl
@[simp] theorem State.writeSymbol_ft (i : Nat) (a : Symbol) : (s.writeSymbol i a).ft = s.ft := rfl
@[simp] theorem State.writeSymbol_tm (i : Nat) (a : Symbol) : (s.writeSymbol i a).tm = s.tm := rfl
@[simp] theorem State.writeSymbol_ct (i : Nat) (a : Symbol) : (s.writeSymbol i a).ct = s.ct := rfl
@[simp] theorem State.writeSymbol_si (i : Nat) (a : Symbol) : (s.writeSymbol i a).si = s.si.write i a := rfl
@[simp] theorem State.writeSymbol_bs (i : Nat) (a : Symbol) : (s.writeSymbol i a).bs = s.bs := rfl
@[simp] theorem State.writeSymbol_so (i : Nat) (a : Symbol) : (s.writeSymbol i a).so = s.so := rfl
@[simp] theorem State.writeSymbol_draws (i : Nat) (a : Symbol) : (s.writeSymbol i a).draws = s.draws := rfl
@[simp] theorem State.writeSymbol_pending (i : Nat) (a : Symbol) : (s.writeSymbol i a).pending = s.pending := rfl
@[simp] theorem State.writeSymbol_response (i : Nat) (a : Symbol) : (s.writeSymbol i a).response = s.response := rfl

/-! ### writeDigit -/

@[simp] theorem State.writeDigit_params (i : Nat) (d : Digit) : (s.writeDigit i d).params = s.params := rfl
@[simp] theorem State.writeDigit_status (i : Nat) (d : Digit) : (s.writeDigit i d).status = s.status := rfl
@[simp] theorem State.writeDigit_treeValid (i : Nat) (d : Digit) : (s.writeDigit i d).treeValid = s.treeValid := rfl
@[simp] theorem State.writeDigit_ctValid (i : Nat) (d : Digit) : (s.writeDigit i d).ctValid = s.ctValid := rfl
@[simp] theorem State.writeDigit_root (i : Nat) (d : Digit) : (s.writeDigit i d).root = s.root := rfl
@[simp] theorem State.writeDigit_nnodes (i : Nat) (d : Digit) : (s.writeDigit i d).nnodes = s.nnodes := rfl
@[simp] theorem State.writeDigit_siLen (i : Nat) (d : Digit) : (s.writeDigit i d).siLen = s.siLen := rfl
@[simp] theorem State.writeDigit_bsLen (i : Nat) (d : Digit) : (s.writeDigit i d).bsLen = s.bsLen := rfl
@[simp] theorem State.writeDigit_soLen (i : Nat) (d : Digit) : (s.writeDigit i d).soLen = s.soLen := rfl
@[simp] theorem State.writeDigit_ft (i : Nat) (d : Digit) : (s.writeDigit i d).ft = s.ft := rfl
@[simp] theorem State.writeDigit_tm (i : Nat) (d : Digit) : (s.writeDigit i d).tm = s.tm := rfl
@[simp] theorem State.writeDigit_ct (i : Nat) (d : Digit) : (s.writeDigit i d).ct = s.ct := rfl
@[simp] theorem State.writeDigit_si (i : Nat) (d : Digit) : (s.writeDigit i d).si = s.si := rfl
@[simp] theorem State.writeDigit_bs (i : Nat) (d : Digit) : (s.writeDigit i d).bs = s.bs.write i d := rfl
@[simp] theorem State.writeDigit_so (i : Nat) (d : Digit) : (s.writeDigit i d).so = s.so := rfl
@[simp] theorem State.writeDigit_draws (i : Nat) (d : Digit) : (s.writeDigit i d).draws = s.draws := rfl
@[simp] theorem State.writeDigit_pending (i : Nat) (d : Digit) : (s.writeDigit i d).pending = s.pending := rfl
@[simp] theorem State.writeDigit_response (i : Nat) (d : Digit) : (s.writeDigit i d).response = s.response := rfl

/-! ### setSymbolLength -/

@[simp] theorem State.setSymbolLength_params (n : Length) : (s.setSymbolLength n).params = s.params := rfl
@[simp] theorem State.setSymbolLength_status (n : Length) : (s.setSymbolLength n).status = s.status := rfl
@[simp] theorem State.setSymbolLength_treeValid (n : Length) : (s.setSymbolLength n).treeValid = s.treeValid := rfl
@[simp] theorem State.setSymbolLength_ctValid (n : Length) : (s.setSymbolLength n).ctValid = s.ctValid := rfl
@[simp] theorem State.setSymbolLength_root (n : Length) : (s.setSymbolLength n).root = s.root := rfl
@[simp] theorem State.setSymbolLength_nnodes (n : Length) : (s.setSymbolLength n).nnodes = s.nnodes := rfl
@[simp] theorem State.setSymbolLength_siLen (n : Length) : (s.setSymbolLength n).siLen = n := rfl
@[simp] theorem State.setSymbolLength_bsLen (n : Length) : (s.setSymbolLength n).bsLen = s.bsLen := rfl
@[simp] theorem State.setSymbolLength_soLen (n : Length) : (s.setSymbolLength n).soLen = s.soLen := rfl
@[simp] theorem State.setSymbolLength_ft (n : Length) : (s.setSymbolLength n).ft = s.ft := rfl
@[simp] theorem State.setSymbolLength_tm (n : Length) : (s.setSymbolLength n).tm = s.tm := rfl
@[simp] theorem State.setSymbolLength_ct (n : Length) : (s.setSymbolLength n).ct = s.ct := rfl
@[simp] theorem State.setSymbolLength_si (n : Length) : (s.setSymbolLength n).si = s.si := rfl
@[simp] theorem State.setSymbolLength_bs (n : Length) : (s.setSymbolLength n).bs = s.bs := rfl
@[simp] theorem State.setSymbolLength_so (n : Length) : (s.setSymbolLength n).so = s.so := rfl
@[simp] theorem State.setSymbolLength_draws (n : Length) : (s.setSymbolLength n).draws = s.draws := rfl
@[simp] theorem State.setSymbolLength_pending (n : Length) : (s.setSymbolLength n).pending = s.pending := rfl
@[simp] theorem State.setSymbolLength_response (n : Length) : (s.setSymbolLength n).response = s.response := rfl

/-! ### setBitLength -/

@[simp] theorem State.setBitLength_params (n : Length) : (s.setBitLength n).params = s.params := rfl
@[simp] theorem State.setBitLength_status (n : Length) : (s.setBitLength n).status = s.status := rfl
@[simp] theorem State.setBitLength_treeValid (n : Length) : (s.setBitLength n).treeValid = s.treeValid := rfl
@[simp] theorem State.setBitLength_ctValid (n : Length) : (s.setBitLength n).ctValid = s.ctValid := rfl
@[simp] theorem State.setBitLength_root (n : Length) : (s.setBitLength n).root = s.root := rfl
@[simp] theorem State.setBitLength_nnodes (n : Length) : (s.setBitLength n).nnodes = s.nnodes := rfl
@[simp] theorem State.setBitLength_siLen (n : Length) : (s.setBitLength n).siLen = s.siLen := rfl
@[simp] theorem State.setBitLength_bsLen (n : Length) : (s.setBitLength n).bsLen = n := rfl
@[simp] theorem State.setBitLength_soLen (n : Length) : (s.setBitLength n).soLen = s.soLen := rfl
@[simp] theorem State.setBitLength_ft (n : Length) : (s.setBitLength n).ft = s.ft := rfl
@[simp] theorem State.setBitLength_tm (n : Length) : (s.setBitLength n).tm = s.tm := rfl
@[simp] theorem State.setBitLength_ct (n : Length) : (s.setBitLength n).ct = s.ct := rfl
@[simp] theorem State.setBitLength_si (n : Length) : (s.setBitLength n).si = s.si := rfl
@[simp] theorem State.setBitLength_bs (n : Length) : (s.setBitLength n).bs = s.bs := rfl
@[simp] theorem State.setBitLength_so (n : Length) : (s.setBitLength n).so = s.so := rfl
@[simp] theorem State.setBitLength_draws (n : Length) : (s.setBitLength n).draws = s.draws := rfl
@[simp] theorem State.setBitLength_pending (n : Length) : (s.setBitLength n).pending = s.pending := rfl
@[simp] theorem State.setBitLength_response (n : Length) : (s.setBitLength n).response = s.response := rfl

/-! ### applyReset -/

@[simp] theorem State.applyReset_params : s.applyReset.params = s.params := rfl
@[simp] theorem State.applyReset_status : s.applyReset.status = .ok := rfl
@[simp] theorem State.applyReset_treeValid : s.applyReset.treeValid = false := rfl
@[simp] theorem State.applyReset_ctValid : s.applyReset.ctValid = false := rfl
@[simp] theorem State.applyReset_root : s.applyReset.root = 0#9 := rfl
@[simp] theorem State.applyReset_nnodes : s.applyReset.nnodes = 0#9 := rfl
@[simp] theorem State.applyReset_siLen : s.applyReset.siLen = 0#32 := rfl
@[simp] theorem State.applyReset_bsLen : s.applyReset.bsLen = 0#32 := rfl
@[simp] theorem State.applyReset_soLen : s.applyReset.soLen = 0#32 := rfl
@[simp] theorem State.applyReset_ft : s.applyReset.ft = [] := rfl
@[simp] theorem State.applyReset_tm : s.applyReset.tm = [] := rfl
@[simp] theorem State.applyReset_ct : s.applyReset.ct = [] := rfl
@[simp] theorem State.applyReset_si : s.applyReset.si = [] := rfl
@[simp] theorem State.applyReset_bs : s.applyReset.bs = [] := rfl
@[simp] theorem State.applyReset_so : s.applyReset.so = [] := rfl
@[simp] theorem State.applyReset_draws : s.applyReset.draws = s.draws := rfl
@[simp] theorem State.applyReset_pending : s.applyReset.pending = s.pending := rfl
@[simp] theorem State.applyReset_response : s.applyReset.response = none := rfl

/-! ### resetOf -/

@[simp] theorem State.resetOf_params (p : Params) : (State.resetOf p).params = p := rfl
@[simp] theorem State.resetOf_status (p : Params) : (State.resetOf p).status = .ok := rfl
@[simp] theorem State.resetOf_treeValid (p : Params) : (State.resetOf p).treeValid = false := rfl
@[simp] theorem State.resetOf_ctValid (p : Params) : (State.resetOf p).ctValid = false := rfl
@[simp] theorem State.resetOf_root (p : Params) : (State.resetOf p).root = 0#9 := rfl
@[simp] theorem State.resetOf_nnodes (p : Params) : (State.resetOf p).nnodes = 0#9 := rfl
@[simp] theorem State.resetOf_siLen (p : Params) : (State.resetOf p).siLen = 0#32 := rfl
@[simp] theorem State.resetOf_bsLen (p : Params) : (State.resetOf p).bsLen = 0#32 := rfl
@[simp] theorem State.resetOf_soLen (p : Params) : (State.resetOf p).soLen = 0#32 := rfl
@[simp] theorem State.resetOf_ft (p : Params) : (State.resetOf p).ft = [] := rfl
@[simp] theorem State.resetOf_tm (p : Params) : (State.resetOf p).tm = [] := rfl
@[simp] theorem State.resetOf_ct (p : Params) : (State.resetOf p).ct = [] := rfl
@[simp] theorem State.resetOf_si (p : Params) : (State.resetOf p).si = [] := rfl
@[simp] theorem State.resetOf_bs (p : Params) : (State.resetOf p).bs = [] := rfl
@[simp] theorem State.resetOf_so (p : Params) : (State.resetOf p).so = [] := rfl
@[simp] theorem State.resetOf_draws (p : Params) : (State.resetOf p).draws = 0 := rfl
@[simp] theorem State.resetOf_pending (p : Params) : (State.resetOf p).pending = [] := rfl
@[simp] theorem State.resetOf_response (p : Params) : (State.resetOf p).response = none := rfl

@[simp] theorem State.reset_eq : State.reset = State.resetOf Config.reference := rfl

end Sys2Proof.Machine
end

