-- ==== Sys2Proof/Laws/Store.lean ====
section
/-! SUPPORT. The laws of a store: what reading gives after each operation, and that every operation keeps
the canonical form. -/

namespace Sys2Proof.Machine

variable {α : Type}

/-! ## Reading after an operation -/

@[simp] theorem Store.read_nil (i : Nat) : Store.read ([] : Store α) i = none := rfl

theorem Store.read_cons (k : Nat) (a : α) (rest : Store α) (i : Nat) :
    Store.read ((k, a) :: rest) i = if k = i then some a else Store.read rest i := rfl

/-- Reading the entry just written gives what was written. -/
@[simp] theorem Store.read_write_same (st : Store α) (i : Nat) (a : α) :
    (st.write i a).read i = some a := by
  induction st with
  | nil => simp [Store.write, Store.read]
  | cons c rest ih =>
    obtain ⟨k, b⟩ := c
    simp only [Store.write]
    split_ifs with h1 h2
    · simp [Store.read]
    · simp [Store.read]
    · rw [Store.read_cons, if_neg (by omega), ih]

/-- A write leaves every other entry as it was. -/
theorem Store.read_write_other (st : Store α) {i j : Nat} (h : j ≠ i) (a : α) :
    (st.write i a).read j = st.read j := by
  induction st with
  | nil => simp [Store.write, Store.read, h.symm]
  | cons c rest ih =>
    obtain ⟨k, b⟩ := c
    simp only [Store.write]
    split_ifs with h1 h2
    · simp [Store.read, h.symm]
    · subst h2
      simp [Store.read, h.symm]
    · simp [Store.read, ih]

/-- An erased entry holds no value. -/
@[simp] theorem Store.read_erase_same (st : Store α) (i : Nat) : (st.erase i).read i = none := by
  induction st with
  | nil => rfl
  | cons c rest ih =>
    obtain ⟨k, b⟩ := c
    by_cases h : k = i
    · simpa [Store.erase, h] using ih
    · have : Store.erase ((k, b) :: rest) i = (k, b) :: Store.erase rest i := by
        simp [Store.erase, h]
      rw [this, Store.read_cons, if_neg h, ih]

/-- Erasing an entry leaves every other entry as it was. -/
theorem Store.read_erase_other (st : Store α) {i j : Nat} (h : j ≠ i) :
    (st.erase i).read j = st.read j := by
  induction st with
  | nil => rfl
  | cons c rest ih =>
    obtain ⟨k, b⟩ := c
    by_cases hk : k = i
    · subst hk
      have : Store.erase ((k, b) :: rest) k = Store.erase rest k := by simp [Store.erase]
      rw [this, ih, Store.read_cons, if_neg h.symm]
    · have : Store.erase ((k, b) :: rest) i = (k, b) :: Store.erase rest i := by
        simp [Store.erase, hk]
      rw [this, Store.read_cons, Store.read_cons, ih]

theorem Store.read_ofListFrom (l : List α) (k i : Nat) :
    (Store.ofListFrom k l).read i = if k ≤ i then l[i - k]? else none := by
  induction l generalizing k with
  | nil => simp [Store.ofListFrom]
  | cons a rest ih =>
    rw [Store.ofListFrom, Store.read_cons, ih]
    by_cases h : k = i
    · simp [h]
    · by_cases h2 : k ≤ i
      · have h3 : k + 1 ≤ i := by omega
        have h4 : i - k = (i - (k + 1)) + 1 := by omega
        rw [if_neg h, if_pos h3, if_pos h2, h4, List.getElem?_cons_succ]
      · rw [if_neg h, if_neg (by omega), if_neg h2]

/-- A sequence laid into a store is read back element by element. -/
@[simp] theorem Store.read_ofList (l : List α) (i : Nat) : (Store.ofList l).read i = l[i]? := by
  simp [Store.ofList, Store.read_ofListFrom]

theorem Store.read_append (st st' : Store α) (i : Nat) :
    Store.read (st ++ st') i = (Store.read st i).or (Store.read st' i) := by
  induction st with
  | nil => simp
  | cons c rest ih =>
    obtain ⟨k, b⟩ := c
    by_cases h : k = i <;> simp [Store.read, h, ih]

theorem Store.read_filter_from (st : Store α) (n i : Nat) :
    Store.read (st.filter (fun c => decide (n ≤ c.1))) i = if n ≤ i then st.read i else none := by
  induction st with
  | nil => simp
  | cons c rest ih =>
    obtain ⟨k, b⟩ := c
    by_cases hk : n ≤ k <;> by_cases h : k = i
    · subst h; simp [Store.read, hk]
    · simp [Store.read, hk, h, ih]
    · subst h; simp [hk, ih]
    · simp [Store.read, hk, h, ih]

/-- After a sequence is written from 0 upward, the entries below its length are the sequence's and the
others are as they were. -/
theorem Store.read_overlay (st : Store α) (l : List α) (i : Nat) :
    (st.overlay l).read i = if i < l.length then l[i]? else st.read i := by
  rw [Store.overlay, Store.read_append, Store.read_ofList, Store.read_filter_from]
  by_cases h : i < l.length
  · simp [h]
  · rw [List.getElem?_eq_none (by omega), if_pos (by omega), if_neg h]; rfl

/-! ## The canonical form -/

theorem Store.wf_nil (size : Nat) : Store.wf size ([] : Store α) :=
  ⟨List.Pairwise.nil, fun _ hc => absurd hc List.not_mem_nil⟩

theorem Store.mem_write {st : Store α} {i : Nat} {a : α} {c : Nat × α} (h : c ∈ st.write i a) :
    c = (i, a) ∨ c ∈ st := by
  induction st with
  | nil => simpa [Store.write] using h
  | cons d rest ih =>
    obtain ⟨k, b⟩ := d
    simp only [Store.write] at h
    split_ifs at h with h1 h2
    · simpa using h
    · rcases List.mem_cons.1 h with h | h
      · exact .inl h
      · exact .inr (List.mem_cons_of_mem _ h)
    · rcases List.mem_cons.1 h with h | h
      · exact .inr (by simp [h])
      · rcases ih h with h | h
        · exact .inl h
        · exact .inr (List.mem_cons_of_mem _ h)

/-- A write inside the store's size keeps the canonical form. -/
theorem Store.wf_write {size : Nat} {st : Store α} (h : Store.wf size st) {i : Nat} (hi : i < size)
    (a : α) : Store.wf size (st.write i a) := by
  refine ⟨?_, fun c hc => ?_⟩
  · obtain ⟨hp, -⟩ := h
    induction st with
    | nil => simp [Store.write]
    | cons d rest ih =>
      obtain ⟨k, b⟩ := d
      rw [List.pairwise_cons] at hp
      simp only [Store.write]
      split_ifs with h1 h2
      · refine List.pairwise_cons.2 ⟨fun c hc => ?_, List.pairwise_cons.2 hp⟩
        rcases List.mem_cons.1 hc with hc | hc
        · subst hc; exact h1
        · exact Nat.lt_trans h1 (hp.1 c hc)
      · subst h2; exact List.pairwise_cons.2 hp
      · refine List.pairwise_cons.2 ⟨fun c hc => ?_, ih hp.2⟩
        rcases Store.mem_write hc with hc | hc
        · subst hc; show k < i; omega
        · exact hp.1 c hc
  · rcases Store.mem_write hc with hc | hc
    · subst hc; exact hi
    · exact h.2 c hc

/-- Erasing keeps the canonical form. -/
theorem Store.wf_erase {size : Nat} {st : Store α} (h : Store.wf size st) (i : Nat) :
    Store.wf size (st.erase i) :=
  ⟨h.1.filter _, fun c hc => h.2 c (List.mem_of_mem_filter hc)⟩

theorem Store.mem_ofListFrom {l : List α} {k : Nat} {c : Nat × α} (h : c ∈ Store.ofListFrom k l) :
    k ≤ c.1 ∧ c.1 < k + l.length := by
  induction l generalizing k with
  | nil => simp [Store.ofListFrom] at h
  | cons a rest ih =>
    rcases List.mem_cons.1 h with h | h
    · subst h; simp
    · have := ih h
      simp only [List.length_cons]
      omega

theorem Store.pairwise_ofListFrom (l : List α) (k : Nat) :
    (Store.ofListFrom k l).Pairwise (fun a b => a.1 < b.1) := by
  induction l generalizing k with
  | nil => simp [Store.ofListFrom]
  | cons a rest ih =>
    refine List.pairwise_cons.2 ⟨fun c hc => ?_, ih (k + 1)⟩
    have := Store.mem_ofListFrom hc
    show k < c.1
    omega

/-- A sequence no longer than the store, laid into it, is in canonical form. -/
theorem Store.wf_ofList {size : Nat} {l : List α} (h : l.length ≤ size) :
    Store.wf size (Store.ofList l) :=
  ⟨Store.pairwise_ofListFrom l 0, fun c hc => by have := Store.mem_ofListFrom hc; omega⟩

/-- Writing a sequence no longer than the store over it keeps the canonical form. -/
theorem Store.wf_overlay {size : Nat} {st : Store α} (h : Store.wf size st) {l : List α}
    (hl : l.length ≤ size) : Store.wf size (st.overlay l) := by
  refine ⟨List.pairwise_append.2 ⟨Store.pairwise_ofListFrom l 0, h.1.filter _, ?_⟩, fun c hc => ?_⟩
  · intro a ha b hb
    have h1 := Store.mem_ofListFrom ha
    have h2 := (List.mem_filter.1 hb).2
    simp only [decide_eq_true_eq] at h2
    omega
  · rcases List.mem_append.1 hc with hc | hc
    · exact (Store.wf_ofList hl).2 c hc
    · exact h.2 c (List.mem_of_mem_filter hc)

/-- An index below every listed one holds no value. -/
theorem Store.read_eq_none_of_lt {st : Store α} {k : Nat} (h : ∀ c ∈ st, k < c.1) : st.read k = none := by
  induction st with
  | nil => rfl
  | cons c rest ih =>
    obtain ⟨j, a⟩ := c
    have hj : k < j := h (j, a) (by simp)
    rw [Store.read_cons, if_neg (by omega), ih (fun c hc => h c (List.mem_cons_of_mem _ hc))]

/-- Two stores in canonical form that read alike at every index are the same list. -/
theorem Store.ext_read {size : Nat} {st st' : Store α} (h : Store.wf size st) (h' : Store.wf size st')
    (heq : ∀ i, st.read i = st'.read i) : st = st' := by
  obtain ⟨h, -⟩ := h
  obtain ⟨h', -⟩ := h'
  induction st generalizing st' with
  | nil =>
    cases st' with
    | nil => rfl
    | cons c rest => have := heq c.1; simp [Store.read] at this
  | cons c rest ih =>
    obtain ⟨k, a⟩ := c
    cases st' with
    | nil => have := heq k; simp [Store.read] at this
    | cons d rest' =>
      obtain ⟨j, b⟩ := d
      rw [List.pairwise_cons] at h h'
      have hk := heq k
      have hj := heq j
      rw [Store.read_cons, if_pos rfl, Store.read_cons] at hk
      rw [Store.read_cons, Store.read_cons, if_pos rfl] at hj
      have hkj : k = j := by
        rcases Nat.lt_trichotomy k j with hlt | heq' | hlt
        · rw [if_neg (by omega),
            Store.read_eq_none_of_lt (fun c hc => Nat.lt_trans hlt (h'.1 c hc))] at hk
          cases hk
        · exact heq'
        · rw [if_neg (by omega),
            Store.read_eq_none_of_lt (fun c hc => Nat.lt_trans hlt (h.1 c hc))] at hj
          cases hj
      subst hkj
      simp only [if_true, Option.some.injEq] at hk
      subst hk
      congr 1
      refine ih (fun i => ?_) h.2 h'.2
      by_cases hi : k = i
      · subst hi
        rw [Store.read_eq_none_of_lt h.1, Store.read_eq_none_of_lt h'.1]
      · have := heq i
        rwa [Store.read_cons, if_neg hi, Store.read_cons, if_neg hi] at this

/-! ## Sequences of entries -/

@[simp] theorem Store.slots_length (st : Store α) (n : Nat) : (st.slots n).length = n := by
  simp [Store.slots]

theorem Store.slots_getElem? (st : Store α) (n i : Nat) :
    (st.slots n)[i]? = if i < n then some (st.read i) else none := by
  by_cases h : i < n
  · simp [Store.slots, h]
  · simp [Store.slots, h]

/-- The first entries of a store into which a sequence was laid are the sequence. -/
theorem Store.slots_ofList (l : List α) : (Store.ofList l).slots l.length = l.map some := by
  apply List.ext_getElem?
  intro i
  rw [Store.slots_getElem?, Store.read_ofList, List.getElem?_map]
  by_cases h : i < l.length <;> simp [h]

/-- The same after a sequence is written over a store. -/
theorem Store.slots_overlay (st : Store α) (l : List α) : (st.overlay l).slots l.length = l.map some := by
  apply List.ext_getElem?
  intro i
  rw [Store.slots_getElem?, Store.read_overlay, List.getElem?_map]
  by_cases h : i < l.length <;> simp [h]

end Sys2Proof.Machine
end

