-- ==== Sys2Proof/Laws/Ops.lean ====
section
/-! SUPPORT. What the shared operations can do: the end of a command, and which writes to the state keep
the stores' canonical form. -/

namespace Sys2Proof.Machine

/-! ## The end of a command -/

/-- A command that answers a next state has either run, with status 0, or raised a status and left the
state with its destination emptied. -/
theorem finishCommand_next {emptied t : State} {r : Except Abort State}
    (h : finishCommand emptied r = .next t) :
    (∃ u, r = .ok u ∧ t = u.endWith .ok) ∨ (∃ e, r = .error (.raise e) ∧ t = emptied.endWith e) := by
  match r, h with
  | .ok u, h => exact .inl ⟨u, rfl, by cases h; rfl⟩
  | .error (.raise e), h => exact .inr ⟨e, rfl, by cases h; rfl⟩
  | .error (.noValue _ _), h => cases h
  | .error .tooDeep, h => cases h

/-- A command that is refused has read an entry that holds no value. -/
theorem finishCommand_refused {emptied : State} {r : Except Abort State} {why : Refusal}
    (h : finishCommand emptied r = .refused why) :
    ∃ sp i, r = .error (.noValue sp i) ∧ why = .noValue sp i := by
  match r, h with
  | .ok _, h => cases h
  | .error (.raise _), h => cases h
  | .error (.noValue sp i), h => exact ⟨sp, i, rfl, by cases h; rfl⟩
  | .error .tooDeep, h => cases h

/-- A command that faults has found the tree too deep. -/
theorem finishCommand_fault {emptied : State} {r : Except Abort State} {why : Fault}
    (h : finishCommand emptied r = .fault why) : r = .error .tooDeep := by
  match r, h with
  | .ok _, h => cases h
  | .error (.raise _), h => cases h
  | .error (.noValue _ _), h => cases h
  | .error .tooDeep, _ => rfl

@[simp] theorem finishCommand_ok (emptied u : State) :
    finishCommand emptied (.ok u) = .next (u.endWith .ok) := rfl

@[simp] theorem finishCommand_raise (emptied : State) (e : Status) :
    finishCommand emptied (.error (.raise e)) = .next (emptied.endWith e) := rfl

@[simp] theorem finishCommand_noValue (emptied : State) (sp : Space) (i : Nat) :
    finishCommand emptied (.error (.noValue sp i)) = .refused (.noValue sp i) := rfl

@[simp] theorem finishCommand_tooDeep (emptied : State) :
    finishCommand emptied (.error .tooDeep) = .fault .treeTooDeep := rfl

/-! ## The canonical form of memory -/

section Canonical

variable {s : State}

theorem Memory.wf_endWith (h : Memory.wf s) (e : Status) : Memory.wf (s.endWith e) := h

theorem Memory.wf_respond (h : Memory.wf s) (r : Response) : Memory.wf (s.respond r) := h

theorem Memory.wf_pending (h : Memory.wf s) (l : List HostEvent) : Memory.wf { s with pending := l } := h

theorem Memory.wf_dropCodes (h : Memory.wf s) : Memory.wf s.dropCodes :=
  ⟨h.1, h.2.1, Store.wf_nil _, h.2.2.2⟩

theorem Memory.wf_dropTree (h : Memory.wf s) : Memory.wf s.dropTree :=
  ⟨h.1, Store.wf_nil _, h.2.2⟩

theorem Memory.wf_dropBits (h : Memory.wf s) : Memory.wf s.dropBits :=
  ⟨h.1, h.2.1, h.2.2.1, h.2.2.2.1, Store.wf_nil _, h.2.2.2.2.2⟩

theorem Memory.wf_dropOutput (h : Memory.wf s) : Memory.wf s.dropOutput :=
  ⟨h.1, h.2.1, h.2.2.1, h.2.2.2.1, h.2.2.2.2.1, Store.wf_nil _⟩

theorem Memory.wf_putTree (h : Memory.wf s) {ns : List TreeNode}
    (hn : ns.length ≤ Config.nodeCapacity) : Memory.wf (s.putTree ns) :=
  ⟨h.1, Store.wf_ofList hn, h.2.2⟩

theorem Memory.wf_putCodes (h : Memory.wf s) {c : Store CodeEntry}
    (hc : Store.wf Config.symbolCount c) : Memory.wf (s.putCodes c) :=
  ⟨h.1, h.2.1, hc, h.2.2.2⟩

theorem Memory.wf_putBits (h : Memory.wf s) {out : List Digit}
    (ho : out.length ≤ s.params.bitCapacity) : Memory.wf (s.putBits out) :=
  ⟨h.1, h.2.1, h.2.2.1, h.2.2.2.1, Store.wf_ofList ho, h.2.2.2.2.2⟩

theorem Memory.wf_putOutput (h : Memory.wf s) {out : List Symbol}
    (ho : out.length ≤ s.params.symbolCapacity) : Memory.wf (s.putOutput out) :=
  ⟨h.1, h.2.1, h.2.2.1, h.2.2.2.1, h.2.2.2.2.1, Store.wf_overlay h.2.2.2.2.2 ho⟩

theorem Memory.wf_writeCount (h : Memory.wf s) {i : Nat} (hi : i < Config.symbolCount) (n : Nat) :
    Memory.wf (s.writeCount i n) :=
  ⟨Store.wf_write h.1 hi n, h.2⟩

theorem Memory.wf_removeCount (h : Memory.wf s) (i : Nat) : Memory.wf (s.removeCount i) :=
  ⟨Store.wf_erase h.1 i, h.2⟩

theorem Memory.wf_writeSymbol (h : Memory.wf s) {i : Nat} (hi : i < s.params.symbolCapacity)
    (a : Symbol) : Memory.wf (s.writeSymbol i a) :=
  ⟨h.1, h.2.1, h.2.2.1, Store.wf_write h.2.2.2.1 hi a, h.2.2.2.2⟩

theorem Memory.wf_writeDigit (h : Memory.wf s) {i : Nat} (hi : i < s.params.bitCapacity) (d : Digit) :
    Memory.wf (s.writeDigit i d) :=
  ⟨h.1, h.2.1, h.2.2.1, h.2.2.2.1, Store.wf_write h.2.2.2.2.1 hi d, h.2.2.2.2.2⟩

theorem Memory.wf_setSymbolLength (h : Memory.wf s) (n : Length) : Memory.wf (s.setSymbolLength n) := h

theorem Memory.wf_setBitLength (h : Memory.wf s) (n : Length) : Memory.wf (s.setBitLength n) := h

/-- The reset state's memory is in canonical form, whatever the chip's parameters. -/
theorem Memory.wf_resetOf (p : Params) : Memory.wf (State.resetOf p) :=
  ⟨Store.wf_nil _, Store.wf_nil _, Store.wf_nil _, Store.wf_nil _, Store.wf_nil _, Store.wf_nil _⟩

theorem Memory.wf_reset : Memory.wf State.reset := Memory.wf_resetOf _

theorem Memory.wf_applyReset : Memory.wf s.applyReset := Memory.wf_resetOf s.params

/-- The table GEN writes is in canonical form. -/
theorem codeTable_wf (codes : List (Symbol × List Digit)) :
    Store.wf Config.symbolCount (codeTable codes) := by
  suffices h : ∀ table : Store CodeEntry, Store.wf Config.symbolCount table →
      Store.wf Config.symbolCount
        (codes.foldl (fun table c => Store.write table c.1.toNat (CodeEntry.ofDigits c.2)) table) from
    h [] (Store.wf_nil _)
  induction codes with
  | nil => exact fun _ h => h
  | cons c rest ih => exact fun table h => ih _ (Store.wf_write h c.1.isLt _)

end Canonical

end Sys2Proof.Machine
end

