-- ==== Sys2Proof/Laws/Commands.lean ====
section
/-! SUPPORT. Each command's inversion: if it answers a next state, then one of these cases holds. -/

namespace Sys2Proof.Machine

variable {s t : State}

@[simp] theorem exec_build (s : State) : exec .build s = execBuild s := rfl
@[simp] theorem exec_gen (s : State) : exec .gen s = execGen s := rfl
@[simp] theorem exec_enc (s : State) : exec .enc s = execEnc s := rfl
@[simp] theorem exec_dec (s : State) : exec .dec s = execDec s := rfl
@[simp] theorem exec_endSession (s : State) : exec .endSession s = execEndSession s := rfl

/-- Everything BUILD computes (R98). -/
theorem buildTree_cases (s : State) :
    (presentEntries s.ft = [] ∧ buildTree s = .error (.raise .invalidInput)) ∨
    (presentEntries s.ft ≠ [] ∧ totalCount (presentEntries s.ft) > 2 ^ s.params.weightWidth - 1 ∧
      buildTree s = .error (.raise .capacityExceeded)) ∨
    (presentEntries s.ft ≠ [] ∧ totalCount (presentEntries s.ft) ≤ 2 ^ s.params.weightWidth - 1 ∧
      buildTree s = .ok (s.dropCodes.putTree (treeNodes (presentEntries s.ft)))) := by
  by_cases h0 : presentEntries s.ft = []
  · exact .inl ⟨h0, by simp [buildTree, h0]⟩
  · by_cases h1 : totalCount (presentEntries s.ft) > 2 ^ s.params.weightWidth - 1
    · exact .inr (.inl ⟨h0, h1, by simp only [buildTree]; rw [if_neg h0, if_pos h1]⟩)
    · exact .inr (.inr ⟨h0, Nat.not_lt.1 h1, by simp only [buildTree]; rw [if_neg h0, if_neg h1]⟩)

/-- BUILD always answers a next state, one of three (R98). -/
theorem execBuild_cases (s : State) :
    (presentEntries s.ft = [] ∧ execBuild s = .next (s.dropCodes.dropTree.endWith .invalidInput)) ∨
    (presentEntries s.ft ≠ [] ∧ totalCount (presentEntries s.ft) > 2 ^ s.params.weightWidth - 1 ∧
      execBuild s = .next (s.dropCodes.dropTree.endWith .capacityExceeded)) ∨
    (presentEntries s.ft ≠ [] ∧ totalCount (presentEntries s.ft) ≤ 2 ^ s.params.weightWidth - 1 ∧
      execBuild s = .next ((s.dropCodes.putTree (treeNodes (presentEntries s.ft))).endWith .ok)) := by
  rcases buildTree_cases s with ⟨h0, h⟩ | ⟨h0, h1, h⟩ | ⟨h0, h1, h⟩
  · exact .inl ⟨h0, by rw [execBuild, h, finishCommand_raise]⟩
  · exact .inr (.inl ⟨h0, h1, by rw [execBuild, h, finishCommand_raise]⟩)
  · exact .inr (.inr ⟨h0, h1, by rw [execBuild, h, finishCommand_ok]⟩)

/-- GEN's next states (R109). -/
theorem execGen_next (h : execGen s = .next t) :
    (s.treeValid = false ∧ t = s.dropCodes.endWith .sequenceError) ∨
    (s.treeValid = true ∧ ∃ codes, walk s.tm (Config.codeCapacity + 1) s.root [] = .ok codes ∧
      t = (s.putCodes (codeTable codes)).endWith .ok) ∨
    (s.treeValid = true ∧ ∃ e, walk s.tm (Config.codeCapacity + 1) s.root [] = .error (.raise e) ∧
      t = s.dropCodes.endWith e) := by
  cases hv : s.treeValid
  · refine .inl ⟨rfl, ?_⟩
    simp [execGen, generateTable, hv] at h
    exact h.symm
  · cases hw : walk s.tm (Config.codeCapacity + 1) s.root [] with
    | error e =>
      rcases finishCommand_next h with ⟨u, hu, -⟩ | ⟨e', he', ht⟩
      · simp [generateTable, hv, hw] at hu
      · simp [generateTable, hv, hw] at he'
        exact .inr (.inr ⟨rfl, e', by rw [he'], ht⟩)
    | ok codes =>
      rcases finishCommand_next h with ⟨u, hu, ht⟩ | ⟨e', he', -⟩
      · simp [generateTable, hv, hw] at hu
        exact .inr (.inl ⟨rfl, codes, rfl, by rw [ht, hu]⟩)
      · simp [generateTable, hv, hw] at he'

/-- The walk raises no status: GEN's only one is SequenceError (R109). -/
theorem walk_ne_raise (tm : Store TreeNode) (fuel : Nat) (n : NodeIndex) (p : List Digit) (e : Status) :
    walk tm fuel n p ≠ .error (.raise e) := by
  induction fuel generalizing n p with
  | zero => simp [walk]
  | succ fuel ih =>
    intro h
    rw [walk] at h
    split at h
    · cases h
    · split at h
      · cases h
      · split at h
        · rename_i hl
          cases h
          split at hl
          · cases hl
          · exact ih _ _ hl
        · split at h
          · rename_i hr
            cases h
            split at hr
            · cases hr
            · exact ih _ _ hr
          · cases h

/-- ENC's next states (R118). -/
theorem execEnc_next (h : execEnc s = .next t) :
    (s.ctValid = false ∧ t = s.dropBits.endWith .sequenceError) ∨
    (s.ctValid = true ∧ ∃ e, encodeSlots s.ct 0 s.symbolSlots = .error (.raise e) ∧
      t = s.dropBits.endWith e) ∨
    (s.ctValid = true ∧ ∃ out, encodeSlots s.ct 0 s.symbolSlots = .ok out ∧
      out.length > s.params.bitCapacity ∧ t = s.dropBits.endWith .capacityExceeded) ∨
    (s.ctValid = true ∧ ∃ out, encodeSlots s.ct 0 s.symbolSlots = .ok out ∧
      out.length ≤ s.params.bitCapacity ∧ t = (s.putBits out).endWith .ok) := by
  cases hv : s.ctValid
  · refine .inl ⟨rfl, ?_⟩
    simp [execEnc, encodeInput, hv] at h
    exact h.symm
  · cases hw : encodeSlots s.ct 0 s.symbolSlots with
    | error e =>
      rcases finishCommand_next h with ⟨u, hu, -⟩ | ⟨e', he', ht⟩
      · simp [encodeInput, hv, hw] at hu
      · simp [encodeInput, hv, hw] at he'
        exact .inr (.inl ⟨rfl, e', by rw [he'], ht⟩)
    | ok out =>
      by_cases hc : out.length > s.params.bitCapacity
      · refine .inr (.inr (.inl ⟨rfl, out, rfl, hc, ?_⟩))
        simp [execEnc, encodeInput, hv, hw, hc] at h
        exact h.symm
      · refine .inr (.inr (.inr ⟨rfl, out, rfl, Nat.not_lt.1 hc, ?_⟩))
        simp [execEnc, encodeInput, hv, hw, hc] at h
        exact h.symm

/-- DEC's next states (R130). -/
theorem execDec_next (h : execDec s = .next t) :
    (s.treeValid = false ∧ t = s.dropOutput.endWith .sequenceError) ∨
    (s.treeValid = true ∧ ∃ e, decodeSlots s.tm s.root 0 s.root s.bitSlots = .error (.raise e) ∧
      t = s.dropOutput.endWith e) ∨
    (s.treeValid = true ∧ ∃ out, decodeSlots s.tm s.root 0 s.root s.bitSlots = .ok out ∧
      out.length > s.params.symbolCapacity ∧ t = s.dropOutput.endWith .capacityExceeded) ∨
    (s.treeValid = true ∧ ∃ out, decodeSlots s.tm s.root 0 s.root s.bitSlots = .ok out ∧
      out.length ≤ s.params.symbolCapacity ∧ t = (s.putOutput out).endWith .ok) := by
  cases hv : s.treeValid
  · refine .inl ⟨rfl, ?_⟩
    simp [execDec, decodeInput, hv] at h
    exact h.symm
  · cases hw : decodeSlots s.tm s.root 0 s.root s.bitSlots with
    | error e =>
      rcases finishCommand_next h with ⟨u, hu, -⟩ | ⟨e', he', ht⟩
      · simp [decodeInput, hv, hw] at hu
      · simp [decodeInput, hv, hw] at he'
        exact .inr (.inl ⟨rfl, e', by rw [he'], ht⟩)
    | ok out =>
      by_cases hc : out.length > s.params.symbolCapacity
      · refine .inr (.inr (.inl ⟨rfl, out, rfl, hc, ?_⟩))
        simp [execDec, decodeInput, hv, hw, hc] at h
        exact h.symm
      · refine .inr (.inr (.inr ⟨rfl, out, rfl, Nat.not_lt.1 hc, ?_⟩))
        simp [execDec, decodeInput, hv, hw, hc] at h
        exact h.symm

/-- END's one next state (R140). -/
theorem execEndSession_eq (s : State) :
    execEndSession s = .next (s.dropCodes.dropTree.endWith .ok) := rfl

end Sys2Proof.Machine
end

