-- ==== Sys2Proof/Laws/HostPort.lean ====
section
/-! SUPPORT. What the host port can do: the step on each kind of event, and the cases of a host write. -/

namespace Sys2Proof.Machine

variable {s : State}

theorem step_idle (h : s.pending = []) : step s = .next s := by
  simp only [step, nextEvent, h]

theorem step_reset {rest : List HostEvent} (h : s.pending = .reset :: rest) :
    step s = .next (State.applyReset { s with pending := rest }) := by
  simp only [step, nextEvent, h, hostEvent]

theorem step_transaction {r : Request} {rest : List HostEvent}
    (h : s.pending = .transaction r :: rest) :
    step s = hostTransaction { s with pending := rest } r := by
  simp only [step, nextEvent, h, hostEvent]

/-- A read is answered, and changes nothing else (R142). -/
theorem hostTransaction_read {r : Request} (h : r.we = false) :
    hostTransaction s r = .next (hostRead s (Space.ofNumber r.space) r.index.toNat) := by
  simp [hostTransaction, h]

theorem hostRead_eq (s : State) (sp : Option Space) (i : Nat) :
    ∃ resp, hostRead s sp i = s.respond resp := by
  cases sp with
  | none => exact ⟨_, rfl⟩
  | some sp => simp only [hostRead]; split_ifs <;> exact ⟨_, rfl⟩

/-- A write to CMD is a command issue, any other write a host write (R143, R144). -/
theorem hostTransaction_write {r : Request} (h : r.we = true) :
    (Space.ofNumber r.space = some .csr ∧ r.index.toNat = 7 ∧
      hostTransaction s r = hostCommand s (BitVec.ofNat 32 r.wdata)) ∨
    (¬(Space.ofNumber r.space = some .csr ∧ r.index.toNat = 7) ∧
      hostTransaction s r = .next (hostWrite s (Space.ofNumber r.space) r.index.toNat r.wdata)) := by
  by_cases hc : Space.ofNumber r.space = some .csr ∧ r.index.toNat = 7
  · exact .inl ⟨hc.1, hc.2, by simp [hostTransaction, h, hc]⟩
  · exact .inr ⟨hc, by simp only [hostTransaction, h, if_true]; rw [if_neg hc]⟩

/-- A host write is refused and changes nothing, or writes one entry (R143). -/
theorem hostWrite_cases (s : State) (sp : Option Space) (i wdata : Nat) :
    hostWrite s sp i wdata = s.respond refusedResponse ∨
    ∃ sp', sp = some sp' ∧ writable s.params sp' i (wdata % 2 ^ sp'.entryWidth s.params) = true ∧
      hostWrite s sp i wdata =
        (s.writeEntry sp' i (wdata % 2 ^ sp'.entryWidth s.params)).respond writtenResponse := by
  cases sp with
  | none => exact .inl rfl
  | some sp =>
    by_cases h : writable s.params sp i (wdata % 2 ^ sp.entryWidth s.params) = true
    · exact .inr ⟨sp, rfl, h, by simp [hostWrite, h]⟩
    · exact .inl (by simp [hostWrite, h])

/-- What an accepted write does to the state: one of five writes, or nothing (R143). -/
theorem writeEntry_cases (s : State) (sp : Space) (i w : Nat) :
    (sp = .csr ∧ i = 4 ∧ s.writeEntry sp i w = s.setSymbolLength (BitVec.ofNat 32 w)) ∨
    (sp = .csr ∧ i = 5 ∧ s.writeEntry sp i w = s.setBitLength (BitVec.ofNat 32 w)) ∨
    (sp = .ft ∧ s.writeEntry sp i w = s.writeCount i (w % 2 ^ s.params.weightWidth)) ∨
    (sp = .ft ∧ s.writeEntry sp i w = s.removeCount i) ∨
    (sp = .si ∧ s.writeEntry sp i w = s.writeSymbol i (BitVec.ofNat 8 w)) ∨
    (sp = .bs ∧ s.writeEntry sp i w = s.writeDigit i (w.testBit 0)) ∨
    s.writeEntry sp i w = s := by
  cases sp with
  | csr =>
    by_cases h4 : i = 4
    · exact .inl ⟨rfl, h4, by simp [State.writeEntry, h4]⟩
    · by_cases h5 : i = 5
      · exact .inr (.inl ⟨rfl, h5, by simp [State.writeEntry, h5]⟩)
      · exact .inr (.inr (.inr (.inr (.inr (.inr (by simp [State.writeEntry, h4, h5]))))))
  | ft =>
    by_cases hp : w.testBit s.params.weightWidth = true
    · exact .inr (.inr (.inl ⟨rfl, by simp [State.writeEntry, hp]⟩))
    · exact .inr (.inr (.inr (.inl ⟨rfl, by simp [State.writeEntry, hp]⟩)))
  | si => exact .inr (.inr (.inr (.inr (.inl ⟨rfl, rfl⟩))))
  | bs => exact .inr (.inr (.inr (.inr (.inr (.inl ⟨rfl, rfl⟩)))))
  | tm => exact .inr (.inr (.inr (.inr (.inr (.inr rfl)))))
  | ct => exact .inr (.inr (.inr (.inr (.inr (.inr rfl)))))
  | so => exact .inr (.inr (.inr (.inr (.inr (.inr rfl)))))

end Sys2Proof.Machine
end

