-- ==== Sys2Proof/Laws/Operands.lean ====
section
/-! SUPPORT. The commands' operands: which entries of FT are present, and the digits of a code. -/

namespace Sys2Proof.Machine

/-! ## The present entries of FT (R98) -/

/-- An entry is present exactly when FT lists its symbol with that count. -/
theorem mem_presentEntries {ft : Store Nat} {e : Symbol × Nat} :
    e ∈ presentEntries ft ↔ ft.read e.1.toNat = some e.2 := by
  obtain ⟨sym, count⟩ := e
  simp only [presentEntries, List.mem_filterMap, List.mem_range, Option.map_eq_some_iff,
    Prod.mk.injEq]
  constructor
  · rintro ⟨k, hk, n, hn, hsym, rfl⟩
    have : sym.toNat = k := by
      rw [← hsym, BitVec.toNat_ofNat]
      exact Nat.mod_eq_of_lt hk
    rw [this]; exact hn
  · intro h
    exact ⟨sym.toNat, sym.isLt, count, h, by simp, rfl⟩

theorem presentEntries_length_le (ft : Store Nat) : (presentEntries ft).length ≤ Config.symbolCount := by
  exact (List.length_filterMap_le _ _).trans (by simp)

/-- The present entries depend on what FT reads alone, not on how the host wrote it (R90). -/
theorem presentEntries_congr {ft ft' : Store Nat} (h : ∀ i < 256, ft.read i = ft'.read i) :
    presentEntries ft = presentEntries ft' := by
  refine List.filterMap_congr (fun k hk => ?_)
  rw [h k (List.mem_range.1 hk)]

/-- The present entries are in ascending order of the symbol (R91). -/
theorem presentEntries_sorted (ft : Store Nat) :
    (presentEntries ft).Pairwise (fun a b => a.1.toNat < b.1.toNat) := by
  refine List.Pairwise.filterMap _ ?_
    ((List.pairwise_lt_range (n := Config.symbolCount)).imp_of_mem
      (S := fun a b => a < b ∧ b < 256) (fun ha hb h => ⟨h, List.mem_range.1 hb⟩))
  rintro a b ⟨hlt, hb⟩ x hx y hy
  simp only [Option.map_eq_some_iff] at hx hy
  obtain ⟨n, -, rfl⟩ := hx
  obtain ⟨m, -, rfl⟩ := hy
  simp only [BitVec.toNat_ofNat]
  rw [Nat.mod_eq_of_lt (by omega), Nat.mod_eq_of_lt (by omega)]
  exact hlt

/-! ## The digits of a code (R24, R80) -/

theorem digitsValue_lt (p : List Digit) : digitsValue p < 2 ^ p.length := by
  induction p with
  | nil => simp [digitsValue]
  | cons d rest ih =>
    simp only [digitsValue, List.length_cons, Nat.pow_succ]
    cases d <;> simp <;> omega

theorem digitsValue_testBit (p : List Digit) (i : Nat) : (digitsValue p).testBit i = p.getD i false := by
  induction p generalizing i with
  | nil => simp [digitsValue]
  | cons d rest ih =>
    cases i with
    | zero => cases d <;> simp [digitsValue, Nat.testBit_zero]
    | succ i =>
      rw [Nat.testBit_succ, show digitsValue (d :: rest) / 2 = digitsValue rest by
        cases d <;> (simp [digitsValue]; try omega), ih]
      simp

@[simp] theorem CodeEntry.digits_length (e : CodeEntry) : e.digits.length = e.len.toNat := by
  simp [CodeEntry.digits]

/-- A code of at most 255 digits survives its entry of CT. -/
theorem CodeEntry.digits_ofDigits {p : List Digit} (h : p.length ≤ Config.codeCapacity) :
    (CodeEntry.ofDigits p).digits = p := by
  have h' : p.length ≤ 255 := h
  have hlen : (BitVec.ofNat 8 p.length).toNat = p.length := by
    simp only [BitVec.toNat_ofNat]; omega
  refine List.ext_getElem (by simp [CodeEntry.ofDigits]; omega) (fun i h1 h2 => ?_)
  have hi : i < 255 := by omega
  simp [CodeEntry.digits, CodeEntry.ofDigits, BitVec.getLsbD_ofNat, hi, digitsValue_testBit, h2]

/-- The digits at and above len are 0 in an entry made from a code (R80). -/
theorem CodeEntry.ofDigits_code_above {p : List Digit} {i : Nat} (h : p.length ≤ i) :
    (CodeEntry.ofDigits p).code.getLsbD i = false := by
  simp [CodeEntry.ofDigits, BitVec.getLsbD_ofNat, digitsValue_testBit, h]

end Sys2Proof.Machine
end

