-- ==== Sys2Proof/Laws/PerInstr.lean ====
section
/-! SUPPORT. One lemma per command: its word, decoded, is the command again (30_encoding R70, R71). -/

namespace Sys2Proof.Laws.DecodesBack

/-- The command is well formed and its word decodes to it. -/
def Statement (i : Instr) : Prop := i.wellFormed = true ∧ decode (encode i) = .ok i

theorem build : Statement .build := ⟨rfl, rfl⟩
theorem gen : Statement .gen := ⟨rfl, rfl⟩
theorem enc : Statement .enc := ⟨rfl, rfl⟩
theorem dec : Statement .dec := ⟨rfl, rfl⟩
theorem endSession : Statement .endSession := ⟨rfl, rfl⟩

end Sys2Proof.Laws.DecodesBack
end

