-- ==== Sys2Proof/Laws/TreeBuilder.lean ====
section
/-! SUPPORT. What the tree builder's functions can do: extraction keeps the nodes, the combine steps make
one node fewer than there are leaves. -/

namespace Sys2Proof.Machine

@[simp] theorem extractMin_nil : extractMin [] = none := rfl

/-- Extraction from a non-empty set finds a node. -/
theorem extractMin_isSome {q : List Live} (h : q ≠ []) : ∃ m rest, extractMin q = some (m, rest) := by
  cases q with
  | nil => exact absurd rfl h
  | cons x rest =>
    simp only [extractMin]
    split
    · exact ⟨_, _, rfl⟩
    · split_ifs <;> exact ⟨_, _, rfl⟩

/-- What is extracted and what is left are together what was there. -/
theorem extractMin_perm {q rest : List Live} {m : Live} (h : extractMin q = some (m, rest)) :
    q.Perm (m :: rest) := by
  induction q generalizing m rest with
  | nil => cases h
  | cons x xs ih =>
    simp only [extractMin] at h
    split at h
    · rename_i hn
      cases xs with
      | nil => cases h; exact List.Perm.refl _
      | cons y ys =>
        obtain ⟨m', r', h'⟩ := extractMin_isSome (q := y :: ys) (by simp)
        rw [h'] at hn; cases hn
    · rename_i m' others hn
      split_ifs at h
      · cases h; exact List.Perm.refl _
      · cases h
        exact ((ih hn).cons x).trans (List.Perm.swap _ _ _)

theorem extractMin_length {q rest : List Live} {m : Live} (h : extractMin q = some (m, rest)) :
    q.length = rest.length + 1 := by
  simpa using (extractMin_perm h).length_eq

/-- Two or more live nodes: one combine step extracts two of them and inserts their parent (R93). -/
theorem combine_step {fuel : Nat} {q : List Live} (next : Nat) (h : 2 ≤ q.length) :
    ∃ a b rest, q.Perm (a :: b :: rest) ∧
      combine (fuel + 1) q next =
        internalNode (a.weight + b.weight) (BitVec.ofNat 9 a.index) (BitVec.ofNat 9 b.index) ::
          combine fuel ({ weight := a.weight + b.weight, index := next } :: rest) (next + 1) := by
  obtain ⟨a, q1, ha⟩ := extractMin_isSome (q := q) (by rintro rfl; simp at h)
  have hl := extractMin_length ha
  obtain ⟨b, q2, hb⟩ := extractMin_isSome (q := q1) (by rintro rfl; simp at hl; omega)
  exact ⟨a, b, q2, (extractMin_perm ha).trans ((extractMin_perm hb).cons a), by simp [combine, ha, hb]⟩

/-- One live node: the combine loop ends (R94). -/
theorem combine_one (fuel : Nat) (x : Live) (next : Nat) : combine fuel [x] next = [] := by
  cases fuel <;> simp [combine, extractMin]

/-- From n ≥ 1 live nodes exactly n − 1 combine steps run (R94). -/
theorem combine_length {fuel : Nat} {q : List Live} (next : Nat) (hq : 1 ≤ q.length)
    (hf : q.length ≤ fuel + 1) : (combine fuel q next).length = q.length - 1 := by
  induction fuel generalizing q next with
  | zero =>
    have : q.length = 1 := by omega
    simp [combine, this]
  | succ fuel ih =>
    by_cases h2 : 2 ≤ q.length
    · obtain ⟨a, b, rest, hp, hc⟩ := combine_step (fuel := fuel) next h2
      have hl : q.length = rest.length + 2 := by simpa using hp.length_eq
      rw [hc, List.length_cons, ih (next + 1) (by simp) (by simp; omega)]
      simp; omega
    · match q, hq, h2 with
      | [x], _, _ => rw [combine_one]; rfl
      | _ :: _ :: _, _, h2 => simp at h2

@[simp] theorem leafNodes_length (es : List (Symbol × Nat)) : (leafNodes es).length = es.length := by
  simp [leafNodes]

@[simp] theorem liveFrom_length (k : Nat) (es : List (Symbol × Nat)) :
    (liveFrom k es).length = es.length := by
  induction es generalizing k with
  | nil => rfl
  | cons e rest ih => simp [liveFrom, ih]

/-- Two or more entries: the leaves, then the combine steps' nodes. -/
theorem treeNodes_many {es : List (Symbol × Nat)} (h : 2 ≤ es.length) :
    treeNodes es = leafNodes es ++ combine es.length (liveFrom 0 es) es.length := by
  match es, h with
  | [_], h => simp at h
  | _ :: _ :: _, _ => rfl

/-- How many nodes a tree has (R100 (b)). -/
theorem treeNodes_length {es : List (Symbol × Nat)} (h : es ≠ []) :
    (treeNodes es).length = if es.length = 1 then 2 else 2 * es.length - 1 := by
  by_cases h1 : es.length = 1
  · match es, h1 with
    | [e], _ => rfl
  · have h2 : 2 ≤ es.length := by
      have := List.length_pos_iff.2 h
      omega
    rw [treeNodes_many h2, List.length_append, leafNodes_length,
      combine_length _ (by simp; omega) (by simp), liveFrom_length, if_neg h1]
    omega

/-- No tree has more nodes than TM has entries. -/
theorem treeNodes_length_le {es : List (Symbol × Nat)} (h : es.length ≤ Config.symbolCount) :
    (treeNodes es).length ≤ Config.nodeCapacity := by
  by_cases h0 : es = []
  · subst h0; simp [treeNodes, leafNodes, combine]
  · rw [treeNodes_length h0]
    simp only [Config.symbolCount, Config.nodeCapacity] at *
    split_ifs <;> omega

end Sys2Proof.Machine
end

