-- ==== Sys2Proof/Tests/Slice0.lean ====
section
/-! SUPPORT. Tests with expected results from spec/95_test_vectors.md, and the smoke test of the
well-formedness checks. -/

namespace Sys2Proof.Tests

open Sys2Proof.Machine

set_option Elab.async false

/-! ## Small states -/

/-- The table {a: 3, b: 2, c: 1} in FT (vector V1). -/
def tableV1 : State := { State.reset with ft := [(0x61, 3), (0x62, 2), (0x63, 1)] }

/-- V1's tree as the vector gives it. -/
def treeV1 : State :=
  { tableV1 with
    treeValid := true
    root := 4#9
    nnodes := 5#9
    tm :=
      [ (0, { kind := .leaf, sym := 0x61#8, weight := 3, left := 511#9, right := 511#9 }),
        (1, { kind := .leaf, sym := 0x62#8, weight := 2, left := 511#9, right := 511#9 }),
        (2, { kind := .leaf, sym := 0x63#8, weight := 1, left := 511#9, right := 511#9 }),
        (3, { kind := .internal, sym := 0#8, weight := 3, left := 2#9, right := 1#9 }),
        (4, { kind := .internal, sym := 0#8, weight := 6, left := 0#9, right := 3#9 }) ] }

/-- V1's code table as the vector gives it: a = "0", b = "11", c = "10". -/
def codesV1 : State :=
  { treeV1 with
    ctValid := true
    ct :=
      [ (0x61, { len := 1#8, code := 0#255 }), (0x62, { len := 2#8, code := 3#255 }),
        (0x63, { len := 2#8, code := 1#255 }) ] }

/-- The sequence in SI. -/
def State.loadSymbols (s : State) (l : List Symbol) : State :=
  { s with si := Store.ofList l, siLen := BitVec.ofNat 32 l.length }

/-- The bitstream in BS. -/
def State.loadDigits (s : State) (l : List Digit) : State :=
  { s with bs := Store.ofList l, bsLen := BitVec.ofNat 32 l.length }

/-- "aaabbc". -/
def textV1 : List Symbol := [0x61#8, 0x61#8, 0x61#8, 0x62#8, 0x62#8, 0x63#8]

/-- "000111110". -/
def bitsV1 : List Digit := [false, false, false, true, true, true, true, true, false]

/-- The table {a: 4} in FT, and its tree (vector V2). -/
def tableV2 : State := { State.reset with ft := [(0x61, 4)] }

def treeV2 : State :=
  { tableV2 with
    treeValid := true
    root := 1#9
    nnodes := 2#9
    tm :=
      [ (0, { kind := .leaf, sym := 0x61#8, weight := 4, left := 511#9, right := 511#9 }),
        (1, { kind := .internal, sym := 0#8, weight := 4, left := 0#9, right := 511#9 }) ] }

/-- A chip of the smallest capacities. -/
def smallChip : Params := { weightWidth := 2, symbolCapacity := 1, bitCapacity := 2 }

/-- The state with one host request pending. -/
def State.asked (s : State) (we : Bool) (space : BitVec 3) (index : BitVec 32) (wdata : Nat) : State :=
  { s with pending := [.transaction { we := we, space := space, index := index, wdata := wdata }] }

/-- The state an outcome answers, if it answers one. -/
def answered : Host.Outcome State Fault Refusal → Option State
  | .next t => some t
  | .fault _ => none
  | .refused _ => none

theorem eq_next_of_answered {o : Host.Outcome State Fault Refusal} {t : State}
    (h : answered o = some t) : o = .next t := by
  cases o <;> simp_all [answered]

/-- What a command leaves, looked at through f; none when it stops. -/
def after {α : Type} (i : Instr) (s : State) (f : State → α) : Option α := (answered (exec i s)).map f

/-! ## Decoding: the words written out from 30_encoding R70, R71 -/

theorem test_decode_build : decode 0b00000000000000000000000000000001#32 = .ok .build := by rfl
theorem test_decode_gen : decode 0b00000000000000000000000000000010#32 = .ok .gen := by rfl
theorem test_decode_enc : decode 0b00000000000000000000000000000011#32 = .ok .enc := by rfl
theorem test_decode_dec : decode 0b00000000000000000000000000000100#32 = .ok .dec := by rfl
theorem test_decode_end : decode 0b00000000000000000000000000000101#32 = .ok .endSession := by rfl

/-- V40: op = 3 with a reserved bit set is illegal. -/
theorem test_decode_reserved : decode 0x80000003#32 = .error .reservedBits := by rfl

theorem test_decode_table_word : decodeTableWord 32 4 = some .dec := by decide

/-! ## Well-formedness: each check refuses an ill-formed term -/

theorem test_params_no_weight :
    Params.wellFormed { weightWidth := 0, symbolCapacity := 1, bitCapacity := 1 } = false := by decide
theorem test_params_no_symbols :
    Params.wellFormed { weightWidth := 1, symbolCapacity := 0, bitCapacity := 1 } = false := by decide
theorem test_params_many_symbols :
    Params.wellFormed { weightWidth := 1, symbolCapacity := 2 ^ 32, bitCapacity := 1 } = false := by decide
theorem test_params_no_bits :
    Params.wellFormed { weightWidth := 1, symbolCapacity := 1, bitCapacity := 0 } = false := by decide
theorem test_params_many_bits :
    Params.wellFormed { weightWidth := 1, symbolCapacity := 1, bitCapacity := 2 ^ 32 } = false := by decide
theorem test_params_reference : Config.reference.wellFormed = true := by decide

/-- A symbol of 9 bits does not fit the entry word of SI. -/
theorem test_request_too_wide :
    Request.wellFormed Config.reference { we := true, space := 4#3, index := 0#32, wdata := 256 } = false := by
  decide
/-- Space 7 has no entry word. -/
theorem test_request_no_space :
    Request.wellFormed Config.reference { we := true, space := 7#3, index := 0#32, wdata := 1 } = false := by
  decide

/-! ## BUILD (V1, V2) -/

theorem test_build_v1 :
    after .build tableV1 (fun t => (t.tm, t.root, t.nnodes)) = some (treeV1.tm, 4#9, 5#9) := by
  decide +kernel

theorem test_build_v2 :
    after .build tableV2 (fun t => (t.tm, t.root, t.nnodes)) = some (treeV2.tm, 1#9, 2#9) := by
  decide +kernel

/-! ## GEN (V1, V18) -/

theorem test_gen_v1 : after .gen treeV1 (fun t => t.ct) = some codesV1.ct := by decide +kernel

theorem test_gen_one_symbol :
    after .gen treeV2 (fun t => t.codeIn 0x61#8) = some (some [false]) := by decide +kernel

/-! ## ENC (V1, V22) -/

theorem test_enc_v1 :
    after .enc (State.loadSymbols codesV1 textV1) (fun t => (t.bs.map (·.2), t.bsLen)) =
      some (bitsV1, 9#32) := by decide +kernel

/-- SI = "aaad": the unseen symbol last. -/
theorem test_enc_lookup :
    after .enc (State.loadSymbols codesV1 [0x61#8, 0x61#8, 0x61#8, 0x64#8]) (fun t => (t.status, t.bsLen)) =
      some (.lookupError, 0#32) := by decide +kernel

/-! ## DEC (V30, V35) -/

/-- V1's stream without its last digit. -/
theorem test_dec_truncated :
    after .dec (State.loadDigits treeV1 [false, false, false, true, true, true, true, true])
      (fun t => (t.status, t.soLen, t.so)) = some (.malformedStream, 0#32, []) := by decide +kernel

/-- BS = "01" on the one-symbol tree. -/
theorem test_dec_null :
    after .dec (State.loadDigits treeV2 [false, true]) (fun t => (t.status, t.soLen)) =
      some (.nullTraversal, 0#32) := by decide +kernel

/-! ## END (V39) -/

theorem test_end :
    after .endSession (State.loadDigits codesV1 bitsV1) (fun t => (t.treeValid, t.ctValid, t.bsLen)) =
      some (false, false, 9#32) := by decide +kernel

/-! ## The host port (V1's entry words, V40, V42, V43) -/

theorem test_read_tm_word :
    wordValue (treeV1.entryWord .tm 4) = some 0x400000300000006 := by decide +kernel

theorem test_read_ct_word :
    wordValue (codesV1.entryWord .ct 0x62) = some (0x810 * 2 ^ 252 + 3) := by decide +kernel

theorem test_illegal_word :
    (answered (step (State.asked codesV1 true 0#3 7#32 0x101))).map
      (fun t => (t.status, t.ctValid, t.response.map (fun r => (r.err, wordValue r.rdata)))) =
      some (.illegalCommand, true, some (false, some 7)) := by decide +kernel

theorem test_refused_length :
    (answered (step (State.asked codesV1 true 0#3 4#32 4097))).map
      (fun t => (t.siLen, t.response.map (·.err))) = some (0#32, some true) := by decide +kernel

/-- The word of a command, placed where the next step takes it, runs that command from reset. -/
theorem test_fetch_build :
    (answered (step (State.reset.withFetchWord 32 1))).map (·.status) = some .invalidInput := by
  decide +kernel

end Sys2Proof.Tests
end

