-- ==== Sys2Proof/Tests/Witnesses.lean ====
section
/-! SUPPORT. For every statement with hypotheses, a concrete state and operands that meet all of them. -/

namespace Sys2Proof.Tests

open Sys2Proof.Machine

set_option Elab.async false

/-! ## The small states meet the invariants -/

theorem treeV1_shape : TreeShape treeV1.params treeV1.tm treeV1.root treeV1.nnodes where
  leafBound := by decide +kernel
  nodeCount := by decide +kernel
  rootLast := by decide +kernel
  entries i := by
    by_cases h : i < 5
    · interval_cases i <;> decide +kernel
    · have h' : ∀ k, k < 5 → k ≠ i := fun k hk hki => h (hki ▸ hk)
      simp [treeV1, Store.read, h' 0, h' 1, h' 2, h' 3, h' 4]
      omega
  leaves i h := by
    have h : i < 3 := h
    interval_cases i <;> exact ⟨_, _, rfl⟩
  rising i j a b hij hj ha hb := by
    have hj : j < 3 := hj
    interval_cases j <;> interval_cases i <;> cases ha <;> cases hb <;> decide
  internals _ i h1 h2 := by
    have h1 : 3 ≤ i := h1
    have h2 : i < 5 := h2
    interval_cases i
    · exact ⟨2#9, 1#9, leafNode 0x63#8 1, leafNode 0x62#8 2, rfl, by decide, by decide, rfl, rfl⟩
    · exact ⟨0#9, 3#9, leafNode 0x61#8 3, internalNode 3 2#9 1#9, rfl, by decide, by decide, rfl, rfl⟩
  single h := absurd h (by decide +kernel)
  parents c h := by
    have h : c.toNat < 4 := Nat.lt_of_succ_lt_succ h
    have key : ∀ k, k < 4 → (childLinks treeV1.tm).count (BitVec.ofNat 9 k) = 1 := by decide +kernel
    simpa using key c.toNat h
  weights i node h := by
    have hi : i < 5 := by
      by_contra hi
      have h' : ∀ k, k < 5 → k ≠ i := fun k hk hki => hi (hki ▸ hk)
      simp [treeV1, Store.read, h' 0, h' 1, h' 2, h' 3, h' 4] at h
    interval_cases i <;> cases h <;> decide

theorem treeV1_inv : Inv treeV1 where
  params := by decide
  memory := by decide +kernel
  counts := by decide +kernel
  flags := by decide
  tree _ := treeV1_shape
  noTree h := by cases h
  codes h := by cases h
  noCodes _ := rfl
  lengths := by decide

theorem codesV1_match : CodesMatch codesV1 := by
  refine ⟨.node 6 (.leaf 0x61#8 3) (.node 3 (.leaf 0x63#8 1) (.leaf 0x62#8 2)), by decide +kernel, ?_⟩
  have key : ∀ k, k < 256 →
      codesV1.ct.read (BitVec.ofNat 8 k).toNat =
        (codeOf (.node 6 (.leaf 0x61#8 3) (.node 3 (.leaf 0x63#8 1) (.leaf 0x62#8 2)))
          (BitVec.ofNat 8 k)).map CodeEntry.ofDigits ∧
      (codeOf (.node 6 (.leaf 0x61#8 3) (.node 3 (.leaf 0x63#8 1) (.leaf 0x62#8 2)))
        (BitVec.ofNat 8 k)).all (fun p => decide (1 ≤ p.length) && decide (p.length ≤ 255)) = true := by
    decide +kernel
  intro sym
  have h := key sym.toNat sym.isLt
  rw [BitVec.ofNat_toNat, BitVec.setWidth_eq] at h
  refine ⟨h.1, fun p hp => ?_⟩
  have h2 := h.2
  rw [hp] at h2
  simpa [Config.codeCapacity] using h2

theorem codesV1_inv : Inv codesV1 where
  params := by decide
  memory := by decide +kernel
  counts := by decide +kernel
  flags _ := rfl
  tree _ := treeV1_shape
  noTree h := by cases h
  codes _ := codesV1_match
  noCodes h := by cases h
  lengths := by decide

theorem treeV2_shape : TreeShape treeV2.params treeV2.tm treeV2.root treeV2.nnodes where
  leafBound := by decide +kernel
  nodeCount := by decide +kernel
  rootLast := by decide +kernel
  entries i := by
    by_cases h : i < 2
    · interval_cases i <;> decide +kernel
    · have h' : ∀ k, k < 2 → k ≠ i := fun k hk hki => h (hki ▸ hk)
      simp [treeV2, Store.read, h' 0, h' 1]
      omega
  leaves i h := by
    have h : i < 1 := h
    interval_cases i; exact ⟨_, _, rfl⟩
  rising i j a b hij hj ha hb := by
    have hj : j < 1 := hj
    omega
  internals h := absurd h (by decide +kernel)
  single _ := ⟨_, rfl, rfl⟩
  parents c h := by
    have h : c.toNat < 1 := Nat.lt_of_succ_lt_succ h
    have key : ∀ k, k < 1 → (childLinks treeV2.tm).count (BitVec.ofNat 9 k) = 1 := by decide +kernel
    simpa using key c.toNat h
  weights i node h := by
    have hi : i < 2 := by
      by_contra hi
      have h' : ∀ k, k < 2 → k ≠ i := fun k hk hki => hi (hki ▸ hk)
      simp [treeV2, Store.read, h' 0, h' 1] at h
    interval_cases i <;> cases h <;> decide

theorem treeV2_inv : Inv treeV2 where
  params := by decide
  memory := by decide +kernel
  counts := by decide +kernel
  flags := by decide
  tree _ := treeV2_shape
  noTree h := by cases h
  codes h := by cases h
  noCodes _ := rfl
  lengths := by decide

/-- A loaded sequence that fits keeps the invariants. -/
theorem loadSymbols_inv {s : State} (h : Inv s) {l : List Symbol}
    (hl : l.length ≤ s.params.symbolCapacity) : Inv (State.loadSymbols s l) where
  params := h.params
  memory := ⟨h.memory.1, h.memory.2.1, h.memory.2.2.1, Store.wf_ofList hl, h.memory.2.2.2.2⟩
  counts := h.counts
  flags := h.flags
  tree := h.tree
  noTree := h.noTree
  codes := h.codes
  noCodes := h.noCodes
  lengths :=
    ⟨(by simp only [State.loadSymbols, BitVec.toNat_ofNat]; exact (Nat.mod_le _ _).trans hl), h.lengths.2⟩

/-- A loaded bitstream that fits keeps the invariants. -/
theorem loadDigits_inv {s : State} (h : Inv s) {l : List Digit}
    (hl : l.length ≤ s.params.bitCapacity) : Inv (State.loadDigits s l) where
  params := h.params
  memory := ⟨h.memory.1, h.memory.2.1, h.memory.2.2.1, h.memory.2.2.2.1, Store.wf_ofList hl,
    h.memory.2.2.2.2.2⟩
  counts := h.counts
  flags := h.flags
  tree := h.tree
  noTree := h.noTree
  codes := h.codes
  noCodes := h.noCodes
  lengths := ⟨h.lengths.1,
    (by simp only [State.loadDigits, BitVec.toNat_ofNat]; exact (Nat.mod_le _ _).trans hl), h.lengths.2.2⟩

/-- SI_LEN above the written elements keeps the invariants too: the host may do it (R206). -/
theorem setSymbolLength_inv {s : State} (h : Inv s) {n : Length}
    (hn : n.toNat ≤ s.params.symbolCapacity) : Inv (s.setSymbolLength n) where
  params := h.params
  memory := h.memory
  counts := h.counts
  flags := h.flags
  tree := h.tree
  noTree := h.noTree
  codes := h.codes
  noCodes := h.noCodes
  lengths := ⟨hn, h.lengths.2⟩

theorem setBitLength_inv {s : State} (h : Inv s) {n : Length}
    (hn : n.toNat ≤ s.params.bitCapacity) : Inv (s.setBitLength n) where
  params := h.params
  memory := h.memory
  counts := h.counts
  flags := h.flags
  tree := h.tree
  noTree := h.noTree
  codes := h.codes
  noCodes := h.noCodes
  lengths := ⟨h.lengths.1, hn, h.lengths.2.2⟩

/-! ## Whole commands on them -/

theorem build_tableV1 : exec .build tableV1 = .next treeV1 := eq_next_of_answered (by decide +kernel)
theorem build_tableV2 : exec .build tableV2 = .next treeV2 := eq_next_of_answered (by decide +kernel)
theorem gen_treeV1 : exec .gen treeV1 = .next codesV1 := eq_next_of_answered (by decide +kernel)

/-- The state SI = "aaabbc" is encoded in, and the bitstream it gives. -/
theorem enc_codesV1 : exec .enc (State.loadSymbols codesV1 textV1) =
    .next (State.loadDigits (State.loadSymbols codesV1 textV1) bitsV1) :=
  eq_next_of_answered (by decide +kernel)

/-! ## The host port -/

theorem witness_StepRunsTheDecodedCommand : ∃ (s : State) (r : Request) (rest : List HostEvent) (i : Instr),
    s.pending = .transaction r :: rest ∧ r.we = true ∧ r.space = 0#3 ∧ r.index = 7#32 ∧
      decode (BitVec.ofNat 32 r.wdata) = .ok i :=
  ⟨State.asked tableV1 true 0#3 7#32 1, _, [], .build, rfl, rfl, rfl, rfl, rfl⟩

theorem witness_IllegalWordsOnlySetStatus : ∃ (s : State) (r : Request) (rest : List HostEvent),
    s.pending = .transaction r :: rest ∧ r.we = true ∧ r.space = 0#3 ∧ r.index = 7#32 ∧
      ¬(1 ≤ r.wdata % 2 ^ 32 ∧ r.wdata % 2 ^ 32 ≤ 5) :=
  ⟨State.asked codesV1 true 0#3 7#32 6, _, [], rfl, rfl, rfl, rfl, by decide⟩

theorem witness_IdleBlockHoldsItsState : ∃ s : State, s.pending = [] := ⟨State.reset, rfl⟩

theorem witness_HostReadsChangeNothing : ∃ (s : State) (r : Request) (rest : List HostEvent),
    s.pending = .transaction r :: rest ∧ r.we = false :=
  ⟨State.asked codesV1 false 1#3 255#32 0, _, [], rfl, rfl⟩

/-- Every clause of the acceptance of reads, at its last accepted and first refused index. -/
theorem witness_HostReadsChangeNothing_bounds :
    [Space.ft, .tm, .ct, .si, .bs, .so].all (fun sp =>
      readable Config.reference sp (sp.entries Config.reference - 1) &&
      !readable Config.reference sp (sp.entries Config.reference)) = true ∧
    readable Config.reference .csr 6 = true ∧ readable Config.reference .csr 7 = false ∧
    readable Config.reference .csr 8 = false := by decide

theorem witness_RefusedWritesChangeNothing : ∃ (s : State) (r : Request) (rest : List HostEvent),
    s.pending = .transaction r :: rest ∧ r.we = true ∧
    (r.space ≠ 7#3 → r.wellFormed s.params = true) ∧
    ¬((r.space = 0#3 ∧ r.index.toNat = 7) ∨
      (r.space = 0#3 ∧ r.index.toNat = 4 ∧ r.wdata ≤ s.params.symbolCapacity) ∨
      (r.space = 0#3 ∧ r.index.toNat = 5 ∧ r.wdata ≤ s.params.bitCapacity) ∨
      (r.space = 1#3 ∧ r.index.toNat < 256) ∨
      (r.space = 4#3 ∧ r.index.toNat < s.params.symbolCapacity) ∨
      (r.space = 5#3 ∧ r.index.toNat < s.params.bitCapacity)) :=
  ⟨State.asked codesV1 true 0#3 4#32 4097, _, [], rfl, rfl, by decide, by decide⟩

/-- The same hypotheses for a write to space 7 with `wdata` other than 0. -/
theorem witness_RefusedWritesChangeNothing_space7 : ∃ (s : State) (r : Request) (rest : List HostEvent),
    s.pending = .transaction r :: rest ∧ r.we = true ∧ r.space = 7#3 ∧ r.wdata ≠ 0 ∧
    (r.space ≠ 7#3 → r.wellFormed s.params = true) ∧
    ¬((r.space = 0#3 ∧ r.index.toNat = 7) ∨
      (r.space = 0#3 ∧ r.index.toNat = 4 ∧ r.wdata ≤ s.params.symbolCapacity) ∨
      (r.space = 0#3 ∧ r.index.toNat = 5 ∧ r.wdata ≤ s.params.bitCapacity) ∨
      (r.space = 1#3 ∧ r.index.toNat < 256) ∨
      (r.space = 4#3 ∧ r.index.toNat < s.params.symbolCapacity) ∨
      (r.space = 5#3 ∧ r.index.toNat < s.params.bitCapacity)) :=
  ⟨State.asked codesV1 true 7#3 0#32 5, _, [], rfl, rfl, rfl, by decide, by decide, by decide⟩

/-- The hypotheses of each clause of AcceptedWritesReplaceOneEntry, at the boundary of its range. -/
theorem witness_AcceptedWritesReplaceOneEntry : ∃ r1 r2 r3 r4 r5 : Request,
    [r1, r2, r3, r4, r5].all (fun r => r.we && r.wellFormed Config.reference) = true ∧
    (r1.space = 0#3 ∧ r1.index.toNat = 4 ∧ r1.wdata ≤ Config.reference.symbolCapacity) ∧
    (r2.space = 0#3 ∧ r2.index.toNat = 5 ∧ r2.wdata ≤ Config.reference.bitCapacity) ∧
    (r3.space = 1#3 ∧ r3.index.toNat < 256) ∧
    (r4.space = 4#3 ∧ r4.index.toNat < Config.reference.symbolCapacity) ∧
    (r5.space = 5#3 ∧ r5.index.toNat < Config.reference.bitCapacity) ∧
    ∀ r ∈ [r1, r2, r3, r4, r5], ∃ s : State, s.params = Config.reference ∧
      s.pending = .transaction r :: [] :=
  ⟨⟨true, 0#3, 4#32, 4096⟩, ⟨true, 0#3, 5#32, 32768⟩, ⟨true, 1#3, 255#32, 2 ^ 33 - 1⟩,
    ⟨true, 4#3, 4095#32, 255⟩, ⟨true, 5#3, 32767#32, 1⟩, by decide, by decide, by decide, by decide,
    by decide, by decide, fun r _ => ⟨{ State.reset with pending := [.transaction r] }, rfl, rfl⟩⟩

/-- The hypotheses of ReadAfterWriteGivesTheWord in each of its five cases, at the boundary. -/
theorem witness_ReadAfterWriteGivesTheWord :
    ∀ c ∈ [(Space.csr, 4#32, 4096), (.csr, 5#32, 32768), (.ft, 255#32, 2 ^ 33 - 1), (.si, 4095#32, 255),
      (.bs, 32767#32, 1)], ∃ s : State,
      s.pending = .transaction (Request.write c.1 c.2.1 c.2.2) ::
        .transaction (Request.read c.1 c.2.1) :: [] ∧
      c.2.2 < 2 ^ c.1.entryWidth s.params ∧
      ((c.1 = .csr ∧ c.2.1.toNat = 4 ∧ c.2.2 ≤ s.params.symbolCapacity) ∨
        (c.1 = .csr ∧ c.2.1.toNat = 5 ∧ c.2.2 ≤ s.params.bitCapacity) ∨
        (c.1 = .ft ∧ c.2.1.toNat < 256 ∧ 2 ^ s.params.weightWidth ≤ c.2.2) ∨
        (c.1 = .si ∧ c.2.1.toNat < s.params.symbolCapacity) ∨
        (c.1 = .bs ∧ c.2.1.toNat < s.params.bitCapacity)) := by
  intro c hc
  refine ⟨{ State.reset with
    pending := [.transaction (Request.write c.1 c.2.1 c.2.2), .transaction (Request.read c.1 c.2.1)] },
    rfl, ?_⟩
  simp only [List.mem_cons, List.not_mem_nil, or_false] at hc
  rcases hc with rfl | rfl | rfl | rfl | rfl <;> decide

/-- An entry with a value and one without, for each clause of EntryWordLayouts that has a hypothesis. -/
theorem witness_EntryWordLayouts : ∃ s u : State,
    (∃ i count, s.ft.read i = some count) ∧ (∃ i, s.ft.read i = none) ∧
    (∃ i node, s.tm.read i = some node) ∧ (∃ i, s.tm.read i = none) ∧
    s.ctValid = true ∧ (∃ i entry, s.ct.read i = some entry) ∧ (∃ i, s.ct.read i = none) ∧
    u.ctValid = false :=
  ⟨codesV1, treeV1, ⟨0x61, _, rfl⟩, ⟨0x64, rfl⟩, ⟨4, _, rfl⟩, ⟨5, rfl⟩, rfl, ⟨0x61, _, rfl⟩, ⟨0x64, rfl⟩, rfl⟩

theorem witness_HostAccessesLeaveResultsAlone :
    ∃ (s t : State) (r : Request) (rest : List HostEvent),
      s.pending = .transaction r :: rest ∧ ¬(r.we = true ∧ r.space = 0#3 ∧ r.index = 7#32) ∧
      step s = .next t :=
  ⟨State.asked codesV1 true 4#3 0#32 0x63, _, _, [], rfl, by decide, rfl⟩

/-! ## Reset and the invariants -/

theorem witness_ResetEventFromAnyState : ∃ (s : State) (rest : List HostEvent), s.pending = .reset :: rest :=
  ⟨{ codesV1 with pending := [.reset] }, [], rfl⟩

theorem witness_ResetMeetsTheInvariants : ∃ p : Params, p.wellFormed = true := ⟨Config.reference, by decide⟩

theorem witness_StepKeepsStoresCanonical : ∃ s t : State, Memory.wf s ∧ step s = .next t :=
  ⟨State.asked codesV1 true 4#3 0#32 0x63, _, codesV1_inv.memory, rfl⟩

theorem witness_StepKeepsTheParameters : ∃ s t : State, step s = .next t :=
  ⟨State.asked codesV1 true 4#3 0#32 0x63, _, rfl⟩

/-- A command issue: the step that writes most. -/
theorem witness_StepKeepsTheInvariants : ∃ s t : State, Inv s ∧ step s = .next t := by
  refine ⟨State.asked treeV1 true 0#3 7#32 2, codesV1.respond (statusResponse .ok),
    { treeV1_inv with }, eq_next_of_answered (by decide +kernel)⟩

/-- Each of the three outcomes of CommandsCompleteOrReadNoValue happens in a state with the invariants. -/
theorem witness_CommandsCompleteOrReadNoValue :
    (∃ s t, Inv s ∧ exec .gen s = .next t) ∧
    (∃ s, Inv s ∧ 0 < s.siLen.toNat ∧ s.si.read 0 = none ∧ exec .enc s = .refused (.noValue .si 0)) ∧
    (∃ s, Inv s ∧ 0 < s.bsLen.toNat ∧ s.bs.read 0 = none ∧ exec .dec s = .refused (.noValue .bs 0)) :=
  ⟨⟨treeV1, codesV1, treeV1_inv, gen_treeV1⟩,
    ⟨codesV1.setSymbolLength 1#32, setSymbolLength_inv codesV1_inv (by decide), by decide, rfl, rfl⟩,
    ⟨codesV1.setBitLength 1#32, setBitLength_inv codesV1_inv (by decide), by decide, rfl, rfl⟩⟩

theorem witness_StatusesOfEachCommand : ∀ i : Instr, ∃ s t : State, exec i s = .next t := by
  intro i
  cases i
  · exact ⟨tableV1, treeV1, build_tableV1⟩
  · exact ⟨treeV1, codesV1, gen_treeV1⟩
  · exact ⟨_, _, enc_codesV1⟩
  · exact ⟨State.reset, _, rfl⟩
  · exact ⟨State.reset, _, rfl⟩

theorem witness_SequenceErrorExactly : ∃ s : State, s.treeValid = false ∧ s.ctValid = false :=
  ⟨State.reset, rfl, rfl⟩

/-! ## BUILD -/

theorem witness_InvalidInputExactly : ∃ s : State, EmptyTable s := ⟨State.reset, fun _ _ => rfl⟩

/-- W_W = 2: a total of 4 is one too large. -/
theorem witness_BuildRefusesTooLargeTotals :
    ∃ s : State, totalCount (presentEntries s.ft) > 2 ^ s.params.weightWidth - 1 :=
  ⟨{ State.resetOf smallChip with ft := [(0x61, 3), (0x62, 1)] }, by decide +kernel⟩

/-- N = 3, and N = 1 with the largest total that fits W_W = 2. -/
theorem witness_BuildCompletes :
    (∃ s : State, 3 = (List.range 256).countP (fun i => (s.ft.read i).isSome) ∧
      totalCount (presentEntries s.ft) ≤ 2 ^ s.params.weightWidth - 1) ∧
    (∃ s : State, 1 = (List.range 256).countP (fun i => (s.ft.read i).isSome) ∧
      totalCount (presentEntries s.ft) = 2 ^ s.params.weightWidth - 1) :=
  ⟨⟨tableV1, by decide +kernel, by decide +kernel⟩,
    ⟨{ State.resetOf smallChip with ft := [(0x61, 3)] }, by decide +kernel, by decide +kernel⟩⟩

theorem witness_BuildMakesLeavesInSymbolOrder : ∃ (s t : State) (sym : Symbol) (count : Nat),
    exec .build s = .next t ∧ t.status = .ok ∧ s.ft.read sym.toNat = some count :=
  ⟨tableV1, treeV1, 0x62#8, 2, build_tableV1, rfl, rfl⟩

theorem witness_BuildOfOneEntry : ∃ (s : State) (sym : Symbol) (count : Nat),
    (∀ i, i < 256 → s.ft.read i = if i = sym.toNat then some count else none) ∧
    count ≤ 2 ^ s.params.weightWidth - 1 :=
  ⟨tableV2, 0x61#8, 4, by decide +kernel, by decide +kernel⟩

theorem witness_ExtractMinTakesTheFirst :
    ∃ q : List Live, q ≠ [] ∧ q.Pairwise (fun x y => x.index ≠ y.index) :=
  ⟨[⟨3, 0⟩, ⟨2, 1⟩, ⟨2, 2⟩], by decide, by decide⟩

theorem witness_BuildOrdersChildren : ∃ (s t : State) (i : Nat) (node : TreeNode),
    exec .build s = .next t ∧ t.status = .ok ∧ 2 ≤ (presentEntries s.ft).length ∧
    t.tm.read i = some node ∧ node.kind = .internal :=
  ⟨tableV1, treeV1, 3, _, build_tableV1, rfl, by decide +kernel, rfl, rfl⟩

/-- The hypotheses of BuildConservesWeight and of BuildGivesTreeShape, for N = 3 and N = 1; BuildFrame's
are among them. -/
theorem witness_BuildConservesWeight :
    (∃ s t : State, exec .build s = .next t ∧ t.status = .ok ∧ (presentEntries s.ft).length = 3) ∧
    (∃ s t : State, exec .build s = .next t ∧ t.status = .ok ∧ (presentEntries s.ft).length = 1) :=
  ⟨⟨tableV1, treeV1, build_tableV1, rfl, by decide +kernel⟩,
    ⟨tableV2, treeV2, build_tableV2, rfl, by decide +kernel⟩⟩

theorem witness_BuildGivesTreeShape : ∃ s t : State, exec .build s = .next t ∧ t.status = .ok :=
  ⟨tableV2, treeV2, build_tableV2, rfl⟩

theorem witness_BuildIsAFunctionOfTheTable : ∃ s s' : State, s ≠ s' ∧
    s.params.weightWidth = s'.params.weightWidth ∧ ∀ i, i < 256 → s.ft.read i = s'.ft.read i :=
  ⟨tableV1, treeV1, by decide +kernel, rfl, fun _ _ => rfl⟩

/-- A BUILD that succeeds, and one that fails. -/
theorem witness_BuildFrame : (∃ s t : State, exec .build s = .next t ∧ t.status = .ok) ∧
    ∃ s t : State, exec .build s = .next t ∧ t.status ≠ .ok :=
  ⟨⟨tableV1, treeV1, build_tableV1, rfl⟩, ⟨State.reset, _, rfl, by decide⟩⟩

/-! ## GEN -/

theorem witness_GenGivesThePaths : ∃ s : State, Inv s ∧ s.treeValid = true := ⟨treeV1, treeV1_inv, rfl⟩

theorem witness_GenFrame : (∃ s t : State, exec .gen s = .next t ∧ t.status = .ok) ∧
    ∃ s t : State, exec .gen s = .next t ∧ t.status ≠ .ok :=
  ⟨⟨treeV1, codesV1, gen_treeV1, rfl⟩, ⟨State.reset, _, rfl, by decide⟩⟩

theorem witness_CodesAreFreeOfInitialParts : ∃ (s t u : State) (x y : Symbol) (p q : List Digit),
    exec .build s = .next t ∧ t.status = .ok ∧ exec .gen t = .next u ∧ u.status = .ok ∧
    x ≠ y ∧ u.codeIn x = some p ∧ u.codeIn y = some q :=
  ⟨tableV1, treeV1, codesV1, 0x62#8, 0x63#8, [true, true], [true, false], build_tableV1, rfl, gen_treeV1,
    rfl, by decide, by decide +kernel, by decide +kernel⟩

theorem witness_GenCoversThePresentSymbols : ∃ s t : State, exec .build s = .next t ∧ t.status = .ok :=
  ⟨tableV1, treeV1, build_tableV1, rfl⟩

theorem witness_OneSymbolCodeIsZero : ∃ (s : State) (sym : Symbol) (count : Nat),
    (∀ i, i < 256 → s.ft.read i = if i = sym.toNat then some count else none) ∧
    count ≤ 2 ^ s.params.weightWidth - 1 := witness_BuildOfOneEntry

/-! ## ENC -/

theorem holdsSymbols_load {s : State} {l : List Symbol} (h : l.length < 2 ^ 32) :
    HoldsSymbols (State.loadSymbols s l) l := by
  have : (BitVec.ofNat 32 l.length).toNat = l.length := by
    rw [BitVec.toNat_ofNat]; exact Nat.mod_eq_of_lt h
  simp only [HoldsSymbols, State.symbolSlots, State.loadSymbols, this, Store.slots_ofList]

theorem holdsDigits_load {s : State} {l : List Digit} (h : l.length < 2 ^ 32) :
    HoldsDigits (State.loadDigits s l) l := by
  have : (BitVec.ofNat 32 l.length).toNat = l.length := by
    rw [BitVec.toNat_ofNat]; exact Nat.mod_eq_of_lt h
  simp only [HoldsDigits, State.bitSlots, State.loadDigits, this, Store.slots_ofList]

theorem witness_EncConcatenatesTheCodes : ∃ (s : State) (symbols : List Symbol) (out : List Digit),
    s.params.wellFormed = true ∧ s.ctValid = true ∧ HoldsSymbols s symbols ∧
    encodeSequence s.codeIn symbols = some out ∧ out.length ≤ s.params.bitCapacity :=
  ⟨State.loadSymbols codesV1 textV1, textV1, bitsV1, by decide, rfl, holdsSymbols_load (by decide),
    by decide +kernel, by decide⟩

/-- A failing ENC, and a table and an SI with an unseen symbol (V22). -/
theorem witness_LookupErrorExactly :
    (∃ (s t : State) (i : Instr), exec i s = .next t ∧ t.status = .lookupError) ∧
    ∃ (s : State) (symbols : List Symbol), s.ctValid = true ∧ HoldsSymbols s symbols ∧
      ∃ sym ∈ symbols, s.codeIn sym = none :=
  ⟨⟨State.loadSymbols codesV1 [0x64#8], (State.loadSymbols codesV1 [0x64#8]).dropBits.endWith .lookupError,
      .enc, eq_next_of_answered (by decide +kernel), rfl⟩,
    ⟨State.loadSymbols codesV1 [0x61#8, 0x64#8], [0x61#8, 0x64#8], rfl, holdsSymbols_load (by decide),
      0x64#8, by decide, by decide +kernel⟩⟩

/-- B_MAX = 2: three digits are one too many. -/
theorem witness_EncRefusesTooLongBitstreams : ∃ (s : State) (symbols : List Symbol) (out : List Digit),
    s.ctValid = true ∧ HoldsSymbols s symbols ∧ encodeSequence s.codeIn symbols = some out ∧
    out.length > s.params.bitCapacity :=
  ⟨State.loadSymbols { codesV1 with params := { Config.reference with bitCapacity := 2 } } [0x61#8, 0x62#8],
    [0x61#8, 0x62#8], [false, true, true], rfl, holdsSymbols_load (by decide), by decide +kernel, by decide⟩

/-- SI_LEN and BS_LEN one above the elements written. -/
theorem witness_ReadsOfNoValueAreRefused :
    (∃ (s : State) (k : Nat), s.ctValid = true ∧ k < s.siLen.toNat ∧ s.si.read k = none ∧
      ∀ j, j < k → ∃ sym, s.si.read j = some sym ∧ (s.codeIn sym).isSome = true) ∧
    (∃ (s : State) (k : Nat), Inv s ∧ s.treeValid = true ∧ 2 ≤ leafCount s.tm ∧ k < s.bsLen.toNat ∧
      s.bs.read k = none ∧ ∀ j, j < k → (s.bs.read j).isSome = true) :=
  ⟨⟨(State.loadSymbols codesV1 [0x61#8]).setSymbolLength 2#32, 1, rfl, by decide, rfl,
      fun j hj => ⟨0x61#8, by interval_cases j; rfl, by decide +kernel⟩⟩,
    ⟨(State.loadDigits treeV1 [true]).setBitLength 2#32, 1,
      setBitLength_inv (loadDigits_inv treeV1_inv (by decide)) (by decide), rfl, by decide +kernel, by decide,
      rfl, fun j hj => by interval_cases j; rfl⟩⟩

theorem witness_BitstreamLengthIsTheSum : ∃ s t : State, s.params.wellFormed = true ∧
    exec .enc s = .next t ∧ t.status = .ok :=
  ⟨_, _, by decide, enc_codesV1, rfl⟩

theorem witness_EncFrame : (∃ s t : State, exec .enc s = .next t ∧ t.status = .ok) ∧
    ∃ s t : State, exec .enc s = .next t ∧ t.status ≠ .ok :=
  ⟨⟨_, _, enc_codesV1, rfl⟩, ⟨State.reset, _, rfl, by decide⟩⟩

/-! ## DEC -/

theorem witness_DecRefinesDecode : ∃ (s : State) (digits : List Digit), Inv s ∧ s.treeValid = true ∧
    HoldsDigits s digits :=
  ⟨State.loadDigits treeV1 bitsV1, bitsV1, loadDigits_inv treeV1_inv (by decide), rfl,
    holdsDigits_load (by decide)⟩

theorem witness_DecRecoversTheSymbols : ∃ (s : State) (symbols : List Symbol) (digits : List Digit),
    Inv s ∧ s.ctValid = true ∧ encodeSequence s.codeIn symbols = some digits ∧ HoldsDigits s digits ∧
    symbols.length ≤ s.params.symbolCapacity :=
  ⟨State.loadDigits codesV1 bitsV1, textV1, bitsV1, loadDigits_inv codesV1_inv (by decide), rfl,
    by decide +kernel, holdsDigits_load (by decide), by decide⟩

/-- The one-symbol tree with a digit 1, and a tree with more leaves. -/
theorem witness_NullTraversalExactly :
    (∃ (s : State) (digits : List Digit), Inv s ∧ s.treeValid = true ∧ HoldsDigits s digits ∧
      leafCount s.tm = 1 ∧ true ∈ digits) ∧
    (∃ (s : State) (digits : List Digit), Inv s ∧ s.treeValid = true ∧ HoldsDigits s digits ∧
      leafCount s.tm ≠ 1) :=
  ⟨⟨State.loadDigits treeV2 [false, true], [false, true], loadDigits_inv treeV2_inv (by decide), rfl,
      holdsDigits_load (by decide), by decide +kernel, by decide⟩,
    ⟨State.loadDigits treeV1 bitsV1, bitsV1, loadDigits_inv treeV1_inv (by decide), rfl,
      holdsDigits_load (by decide), by decide +kernel⟩⟩

/-- "aaabb" whole, and the first digit of c's code "10". -/
theorem witness_TruncatedStreamIsMalformed :
    ∃ (s : State) (symbols : List Symbol) (sym : Symbol) (whole cut lost : List Digit),
      Inv s ∧ s.ctValid = true ∧ encodeSequence s.codeIn symbols = some whole ∧
      s.codeIn sym = some (cut ++ lost) ∧ cut ≠ [] ∧ lost ≠ [] ∧ HoldsDigits s (whole ++ cut) :=
  ⟨State.loadDigits codesV1 [false, true, true, true], [0x61#8, 0x62#8], 0x63#8, [false, true, true], [true],
    [false], loadDigits_inv codesV1_inv (by decide), rfl, by decide +kernel, by decide +kernel, by decide,
    by decide, holdsDigits_load (by decide)⟩

theorem witness_DecOfTheEmptyStream : ∃ s : State, s.treeValid = true ∧ s.bsLen = 0#32 :=
  ⟨treeV1, rfl, rfl⟩

/-- A DEC that succeeds, with the symbols its digits give, and one that fails. -/
theorem witness_DecFrame :
    (∃ (s t : State) (out : List Symbol), exec .dec s = .next t ∧ t.status = .ok ∧
      decodeSlots s.tm s.root 0 s.root s.bitSlots = .ok out) ∧
    ∃ s t : State, exec .dec s = .next t ∧ t.status ≠ .ok :=
  ⟨⟨State.loadDigits treeV1 [false], ((State.loadDigits treeV1 [false]).putOutput [0x61#8]).endWith .ok,
      [0x61#8], eq_next_of_answered (by decide +kernel), rfl, by rfl⟩,
    ⟨State.reset, _, rfl, by decide⟩⟩

/-- Two different states with equal operands, for each of the three commands. -/
theorem witness_CommandsDependOnTheirOperands :
    (∃ s s' t t' : State, s ≠ s' ∧ s.treeValid = s'.treeValid ∧ s.tm = s'.tm ∧ s.root = s'.root ∧
      exec .gen s = .next t ∧ exec .gen s' = .next t') ∧
    (∃ s s' t t' : State, s ≠ s' ∧ s.ctValid = s'.ctValid ∧ s.ct = s'.ct ∧
      s.symbolSlots = s'.symbolSlots ∧ s.params.bitCapacity = s'.params.bitCapacity ∧
      exec .enc s = .next t ∧ exec .enc s' = .next t') ∧
    (∃ s s' t t' : State, s ≠ s' ∧ s.treeValid = s'.treeValid ∧ s.tm = s'.tm ∧ s.root = s'.root ∧
      s.bitSlots = s'.bitSlots ∧ s.params.symbolCapacity = s'.params.symbolCapacity ∧
      exec .dec s = .next t ∧ exec .dec s' = .next t') :=
  ⟨⟨treeV1, { treeV1 with ft := [] }, codesV1, { codesV1 with ft := [] }, by decide +kernel, rfl, rfl, rfl,
      gen_treeV1, eq_next_of_answered (by decide +kernel)⟩,
    ⟨State.loadSymbols codesV1 textV1, { State.loadSymbols codesV1 textV1 with ft := [] },
      State.loadDigits (State.loadSymbols codesV1 textV1) bitsV1,
      { State.loadDigits (State.loadSymbols codesV1 textV1) bitsV1 with ft := [] }, by decide +kernel, rfl, rfl,
      rfl, rfl, enc_codesV1, eq_next_of_answered (by decide +kernel)⟩,
    ⟨treeV1, { treeV1 with ft := [] }, treeV1, { treeV1 with ft := [] }, by decide +kernel, rfl, rfl, rfl, rfl,
      rfl, eq_next_of_answered (by decide +kernel), eq_next_of_answered (by decide +kernel)⟩⟩

/-! ## The laws and the scripts -/

theorem witness_DecodingInvertsEncoding : ∃ (s : State) (symbols : List Symbol) (out : List Digit),
    Inv s ∧ s.ctValid = true ∧ HoldsSymbols s symbols ∧ encodeSequence s.codeIn symbols = some out ∧
    out.length ≤ s.params.bitCapacity :=
  ⟨State.loadSymbols codesV1 textV1, textV1, bitsV1, loadSymbols_inv codesV1_inv (by decide), rfl,
    holdsSymbols_load (by decide), by decide +kernel, by decide⟩

theorem witness_RoundTrip : ∃ (s : State) (symbols : List Symbol),
    s.params.wellFormed = true ∧ symbols ≠ [] ∧ symbols.length ≤ s.params.symbolCapacity ∧
    symbols.length ≤ 2 ^ s.params.weightWidth - 1 ∧
    (∀ i, i < 256 → s.ft.read i = (frequencyTable symbols).read i) ∧ HoldsSymbols s symbols :=
  ⟨State.loadSymbols tableV1 textV1, textV1, by decide, by decide, by decide, by decide, by decide +kernel,
    holdsSymbols_load (by decide)⟩

/-- Both clauses: N = 3 with another tree over the same leaves, and N = 1. -/
theorem witness_BuildIsOptimal :
    (∃ (s t : State) (T other : Tree), exec .build s = .next t ∧ t.status = .ok ∧
      treeOf t.tm t.root = some T ∧ 2 ≤ (presentEntries s.ft).length ∧
      other.leaves.Perm (presentEntries s.ft) ∧ other ≠ T) ∧
    ∃ (s t : State) (T : Tree) (e : Symbol × Nat), exec .build s = .next t ∧ t.status = .ok ∧
      treeOf t.tm t.root = some T ∧ presentEntries s.ft = [e] :=
  ⟨⟨tableV1, treeV1, .node 6 (.leaf 0x61#8 3) (.node 3 (.leaf 0x63#8 1) (.leaf 0x62#8 2)),
      .node 6 (.node 5 (.leaf 0x61#8 3) (.leaf 0x62#8 2)) (.leaf 0x63#8 1), build_tableV1, rfl,
      by decide +kernel, by decide +kernel, by decide +kernel, by decide⟩,
    ⟨tableV2, treeV2, .node 4 (.leaf 0x61#8 4) .missing, (0x61#8, 4), build_tableV2, rfl, by decide +kernel,
      by decide +kernel⟩⟩

theorem witness_FrequentSymbolsHaveShortCodes :
    ∃ (s t u : State) (x y : Symbol) (m n : Nat) (p q : List Digit),
      exec .build s = .next t ∧ t.status = .ok ∧ exec .gen t = .next u ∧ u.status = .ok ∧
      s.ft.read x.toNat = some m ∧ s.ft.read y.toNat = some n ∧ m > n ∧
      u.codeIn x = some p ∧ u.codeIn y = some q :=
  ⟨tableV1, treeV1, codesV1, 0x61#8, 0x62#8, 3, 2, [false], [true, true], build_tableV1, rfl, gen_treeV1, rfl,
    rfl, rfl, by decide, by decide +kernel, by decide +kernel⟩

theorem witness_LdftLoadsExactlyTheTable : ∃ (s : State) (table : List (Symbol × Nat)),
    table ≠ [] ∧ ∀ e ∈ table, e.2 < 2 ^ s.params.weightWidth :=
  ⟨State.reset, [(0x61#8, 2 ^ 32 - 1)], by decide, by decide⟩

/-- L_MAX = 1 and B_MAX = 2, both filled. -/
theorem witness_LoadsGiveTheSequence : ∃ (s : State) (symbols : List Symbol) (digits : List Digit),
    s.params.wellFormed = true ∧ symbols.length = s.params.symbolCapacity ∧
    digits.length = s.params.bitCapacity :=
  ⟨State.resetOf smallChip, [0x61#8], [true, false], by decide, rfl, rfl⟩

end Sys2Proof.Tests
end

section
/-! What one step can do, and the principle that follows: a property that every update of the state keeps
is kept by every step. -/

namespace Sys2Proof.Machine

variable {s t : State}

/-- The three kinds of step: idle, reset, transaction (R145, R191, R195). -/
theorem step_next (h : step s = .next t) :
    (s.pending = [] ∧ t = s) ∨
    (∃ rest, s.pending = .reset :: rest ∧ t = State.applyReset { s with pending := rest }) ∨
    (∃ r rest, s.pending = .transaction r :: rest ∧
      hostTransaction { s with pending := rest } r = .next t) := by
  match hp : s.pending with
  | [] =>
    rw [step_idle hp] at h
    cases h
    exact .inl ⟨rfl, rfl⟩
  | .reset :: rest =>
    rw [step_reset hp] at h
    cases h
    exact .inr (.inl ⟨rest, rfl, rfl⟩)
  | .transaction r :: rest =>
    rw [step_transaction hp] at h
    exact .inr (.inr ⟨r, rest, rfl, h⟩)

/-- A command issue answers a next state after an illegal word, or after a command that answers one
(R141, R144). -/
theorem hostCommand_next {w : CommandWord} (h : hostCommand s w = .next t) :
    t = (s.endWith .illegalCommand).respond (statusResponse .illegalCommand) ∨
    ∃ i u, exec i s = .next u ∧ t = u.respond (statusResponse u.status) := by
  unfold hostCommand at h
  split at h
  · cases h
    exact .inl rfl
  · rename_i i _
    split at h
    · rename_i u hu
      cases h
      exact .inr ⟨i, u, hu, rfl⟩
    · cases h
    · cases h

/-- A transaction only answers, or writes one entry and answers, or is a command issue (R142 to R144). -/
theorem hostTransaction_next {r : Request} (h : hostTransaction s r = .next t) :
    (∃ resp, t = s.respond resp) ∨
    (∃ sp i w, writable s.params sp i w = true ∧ t = (s.writeEntry sp i w).respond writtenResponse) ∨
    (r.we = true ∧ Space.ofNumber r.space = some .csr ∧ r.index.toNat = 7 ∧
      hostCommand s (BitVec.ofNat 32 r.wdata) = .next t) := by
  cases hwe : r.we with
  | false =>
    rw [hostTransaction_read hwe] at h
    cases h
    exact .inl (hostRead_eq s _ _)
  | true =>
    rcases hostTransaction_write (s := s) hwe with ⟨hsp, hi, heq⟩ | ⟨-, heq⟩
    · exact .inr (.inr ⟨rfl, hsp, hi, heq ▸ h⟩)
    · rw [heq] at h
      cases h
      rcases hostWrite_cases s (Space.ofNumber r.space) r.index.toNat r.wdata with
        hw | ⟨sp, -, hok, hw⟩
      · exact .inl ⟨_, hw⟩
      · exact .inr (.inl ⟨sp, _, _, hok, hw⟩)

/-- The induction over what a step can do: a property kept by taking an event, by reset, by an answer, by
STATUS 7, by an accepted write and by every command is kept by every step. -/
theorem step_keeps {P : State → Prop}
    (hpending : ∀ s l, P s → P { s with pending := l })
    (hreset : ∀ s, P s → P s.applyReset)
    (hrespond : ∀ s resp, P s → P (s.respond resp))
    (hillegal : ∀ s, P s → P (s.endWith .illegalCommand))
    (hwrite : ∀ s sp i w, writable s.params sp i w = true → P s → P (s.writeEntry sp i w))
    (hexec : ∀ i s t, exec i s = .next t → P s → P t)
    (hs : P s) (h : step s = .next t) : P t := by
  rcases step_next h with ⟨-, rfl⟩ | ⟨rest, -, rfl⟩ | ⟨r, rest, -, ht⟩
  · exact hs
  · exact hreset _ (hpending _ rest hs)
  · have hs' := hpending _ rest hs
    rcases hostTransaction_next ht with ⟨resp, rfl⟩ | ⟨sp, i, w, hok, rfl⟩ | ⟨-, -, -, hc⟩
    · exact hrespond _ resp hs'
    · exact hrespond _ _ (hwrite _ sp i w hok hs')
    · rcases hostCommand_next hc with rfl | ⟨i, u, hu, rfl⟩
      · exact hrespond _ _ (hillegal _ hs')
      · exact hrespond _ _ (hexec i _ u hu hs')

/-! ## The parameters -/

@[simp] theorem State.writeEntry_params (s : State) (sp : Space) (i w : Nat) :
    (s.writeEntry sp i w).params = s.params := by
  rcases writeEntry_cases s sp i w with ⟨-, -, h⟩ | ⟨-, -, h⟩ | ⟨-, h⟩ | ⟨-, h⟩ | ⟨-, h⟩ | ⟨-, h⟩ | h <;>
    rw [h] <;> rfl

/-- No command changes the parameters of the chip (R35). -/
theorem exec_params {i : Instr} (h : exec i s = .next t) : t.params = s.params := by
  cases i with
  | build =>
    rw [exec_build] at h
    rcases execBuild_cases s with ⟨-, he⟩ | ⟨-, -, he⟩ | ⟨-, -, he⟩ <;> rw [he] at h <;> cases h <;> rfl
  | gen => rcases execGen_next h with ⟨-, rfl⟩ | ⟨-, _, -, rfl⟩ | ⟨-, _, -, rfl⟩ <;> rfl
  | enc =>
    rcases execEnc_next h with ⟨-, rfl⟩ | ⟨-, _, -, rfl⟩ | ⟨-, _, -, -, rfl⟩ | ⟨-, _, -, -, rfl⟩ <;> rfl
  | dec =>
    rcases execDec_next h with ⟨-, rfl⟩ | ⟨-, _, -, rfl⟩ | ⟨-, _, -, -, rfl⟩ | ⟨-, _, -, -, rfl⟩ <;> rfl
  | endSession => cases h; rfl

/-- Settles O19: the parameters stay through each update of the state, so through every step. -/
theorem stepKeepsTheParameters : Obligations.StepKeepsTheParameters := by
  intro s t h
  refine step_keeps (P := fun u => u.params = s.params) (fun _ _ hu => hu) (fun _ hu => hu)
    (fun _ _ hu => hu) (fun _ hu => hu) (fun u sp i w _ hu => ?_) (fun _ _ _ he hu => ?_) rfl h
  · rw [State.writeEntry_params, hu]
  · rw [exec_params he, hu]

/-! ## Host accesses -/

/-- Space number 0 alone names the registers (R77). -/
theorem Space.ofNumber_eq_csr {n : BitVec 3} (h : Space.ofNumber n = some .csr) : n = 0#3 := by
  revert n
  decide

/-- An accepted write reaches FT, SI, BS and the two lengths of the host alone (R143). -/
theorem writeEntry_frame (s : State) (sp : Space) (i w : Nat) :
    s.writeEntry sp i w = { s with
      ft := (s.writeEntry sp i w).ft, si := (s.writeEntry sp i w).si, bs := (s.writeEntry sp i w).bs,
      siLen := (s.writeEntry sp i w).siLen, bsLen := (s.writeEntry sp i w).bsLen } := by
  rcases writeEntry_cases s sp i w with ⟨-, -, h⟩ | ⟨-, -, h⟩ | ⟨-, h⟩ | ⟨-, h⟩ | ⟨-, h⟩ | ⟨-, h⟩ | h <;>
    rw [h] <;> rfl

/-- Settles O13: without a command issue the transaction only answers, or writes one entry and answers. -/
theorem hostAccessesLeaveResultsAlone : Obligations.HostAccessesLeaveResultsAlone := by
  intro s t r rest hp hnot h
  rw [step_transaction hp] at h
  rcases hostTransaction_next h with ⟨resp, rfl⟩ | ⟨sp, i, w, -, rfl⟩ | ⟨hwe, hsp, hi, -⟩
  · rfl
  · rw [writeEntry_frame]
    rfl
  · exact absurd ⟨hwe, Space.ofNumber_eq_csr hsp, BitVec.eq_of_toNat_eq hi⟩ hnot

/-! ## The reset state -/

/-- The reset state has no tree (R36). -/
theorem noTree_resetOf (p : Params) : NoTree (State.resetOf p) := ⟨rfl, fun _ => rfl, rfl, rfl⟩

/-- The reset state has no code table (R36). -/
theorem noCodes_resetOf (p : Params) : NoCodes (State.resetOf p) := ⟨rfl, fun _ => ⟨rfl, rfl⟩⟩

/-- Settles O14: each value is the one `State.resetOf` writes down. -/
theorem resetStateValues : Obligations.ResetStateValues := by
  rintro p _ rfl
  exact ⟨rfl, rfl, rfl, rfl, rfl, rfl, fun _ _ => rfl, noTree_resetOf p, noCodes_resetOf p,
    fun _ => ⟨rfl, rfl, rfl⟩⟩

/-- Without tree, codes, counts and lengths the invariants ask nothing but R8 and empty stores. -/
theorem Inv.resetOf {p : Params} (hp : p.wellFormed = true) : Inv (State.resetOf p) where
  params := hp
  memory := Memory.wf_resetOf p
  counts _ hc := absurd hc List.not_mem_nil
  flags h := by cases h
  tree h := by cases h
  noTree _ := rfl
  codes h := by cases h
  noCodes _ := rfl
  lengths := ⟨Nat.zero_le _, Nat.zero_le _, Nat.zero_le _⟩

/-- Settles O17, by `Inv.resetOf`. -/
theorem resetMeetsTheInvariants : Obligations.ResetMeetsTheInvariants := fun _ hp => Inv.resetOf hp

end Sys2Proof.Machine
end

section
/-! The tree BUILD makes has the shape of R30 (b): an invariant of the combine loop, held by the leaves at
its start and kept by every combine step. -/

namespace Sys2Proof.Machine

/-! ## Sequences laid into TM -/

theorem Store.map_snd_ofListFrom {α : Type} (l : List α) (k : Nat) :
    (Store.ofListFrom k l).map Prod.snd = l := by
  induction l generalizing k with
  | nil => rfl
  | cons a rest ih => simp [Store.ofListFrom, ih]

theorem leafCount_ofList (ns : List TreeNode) :
    leafCount (Store.ofList ns) = ns.countP (fun node => node.kind == .leaf) := by
  conv_rhs => rw [← Store.map_snd_ofListFrom ns 0, List.countP_map]
  rfl

theorem childLinks_ofList (ns : List TreeNode) :
    childLinks (Store.ofList ns) = ns.flatMap (fun node => [node.left, node.right]) := by
  conv_rhs => rw [← Store.map_snd_ofListFrom ns 0, List.flatMap_map]
  rfl

/-! ## The combine loop (R93, R94) -/

/-- The node a combine step makes of the live nodes a and b (R93). -/
def Live.parentNode (a b : Live) : TreeNode :=
  internalNode (a.weight + b.weight) (BitVec.ofNat 9 a.index) (BitVec.ofNat 9 b.index)

/-- The induction over the combine loop: what every combine step keeps holds when one live node is left. -/
theorem combine_keeps {P : List TreeNode → List Live → Prop}
    (hstep : ∀ ns q a b q1 q2, extractMin q = some (a, q1) → extractMin q1 = some (b, q2) → P ns q →
      P (ns ++ [a.parentNode b])
        ({ weight := a.weight + b.weight, index := ns.length } :: q2))
    {fuel : Nat} {ns : List TreeNode} {q : List Live} (hq : q ≠ []) (hf : q.length ≤ fuel + 1)
    (h : P ns q) : ∃ x, P (ns ++ combine fuel q ns.length) [x] := by
  induction fuel generalizing ns q with
  | zero =>
    obtain ⟨x, rfl⟩ := List.length_eq_one_iff.1 (Nat.le_antisymm hf (List.length_pos_iff.2 hq))
    exact ⟨x, by simpa [combine] using h⟩
  | succ fuel ih =>
    obtain ⟨a, q1, ha⟩ := extractMin_isSome hq
    have hlen := extractMin_length ha
    by_cases h1 : q1 = []
    · subst h1
      have hqa : q = [a] := List.perm_singleton.1 (extractMin_perm ha)
      exact ⟨a, by simpa [hqa, combine_one] using h⟩
    · obtain ⟨b, q2, hb⟩ := extractMin_isSome h1
      have hlen1 := extractMin_length hb
      obtain ⟨x, hx⟩ := ih (List.cons_ne_nil _ _) (by simp only [List.length_cons]; omega)
        (hstep ns q a b q1 q2 ha hb h)
      exact ⟨x, by simpa [combine, ha, hb, Live.parentNode] using hx⟩

/-- The state of the loop: the nodes `ns` made so far from the entries `es`, and the live set `q` of the
roots of the trees they form (R93, R98). -/
structure Forest (es : List (Symbol × Nat)) (ns : List TreeNode) (q : List Live) : Prop where
  /-- Every step makes one node and leaves one live node fewer. -/
  size : ns.length + q.length = 2 * es.length
  leaves : leafNodes es <+: ns
  leafCount : ns.countP (fun node => node.kind == .leaf) = es.length
  live : ∀ x ∈ q, ∃ node, ns[x.index]? = some node ∧ node.weight = x.weight
  total : (q.map (·.weight)).sum = totalCount es
  weights : ∀ node ∈ ns, node.weight ≤ totalCount es
  internals : ∀ i node, es.length ≤ i → ns[i]? = some node →
    ∃ l r a b, node = internalNode (a.weight + b.weight) l r ∧ l.toNat < i ∧ r.toNat < i ∧
      ns[l.toNat]? = some a ∧ ns[r.toNat]? = some b
  /-- Every node is the child of exactly one node or live, not both. -/
  parents : ∀ c : NodeIndex, c ≠ NIL →
    (ns.flatMap (fun node => [node.left, node.right])).count c + (q.map (·.index)).count c.toNat =
      if c.toNat < ns.length then 1 else 0
  /-- The node made last is live. -/
  newest : es.length < ns.length → ∃ x ∈ q, x.index + 1 = ns.length

/-! ### The leaves -/

theorem liveFrom_eq_map (k : Nat) (es : List (Symbol × Nat)) :
    liveFrom k es = (es.zipIdx k).map (fun e => { weight := e.1.2, index := e.2 }) := by
  induction es generalizing k with
  | nil => rfl
  | cons e rest ih => simp [liveFrom, ih]

theorem liveFrom_index (k : Nat) (es : List (Symbol × Nat)) :
    (liveFrom k es).map (·.index) = List.range' k es.length := by
  induction es generalizing k with
  | nil => rfl
  | cons e rest ih => simp [liveFrom, ih, List.range'_succ]

theorem liveFrom_weight (k : Nat) (es : List (Symbol × Nat)) :
    (liveFrom k es).map (·.weight) = es.map (·.2) := by
  induction es generalizing k with
  | nil => rfl
  | cons e rest ih => simp [liveFrom, ih]

theorem leafNodes_getElem? (es : List (Symbol × Nat)) (i : Nat) :
    (leafNodes es)[i]? = es[i]?.map (fun e => leafNode e.1 e.2) := by
  simp [leafNodes]

/-- A leaf is no node's parent. -/
theorem leafNodes_links_count (es : List (Symbol × Nat)) {c : NodeIndex} (hc : c ≠ NIL) :
    ((leafNodes es).flatMap (fun node => [node.left, node.right])).count c = 0 := by
  refine List.count_eq_zero.2 (fun hmem => hc ?_)
  obtain ⟨node, hnode, hlink⟩ := List.mem_flatMap.1 hmem
  obtain ⟨e, -, rfl⟩ := List.mem_map.1 hnode
  simpa [leafNode] using hlink

/-- Before the first combine step the leaves are the nodes, and all of them are live (R98). -/
theorem Forest.init (es : List (Symbol × Nat)) : Forest es (leafNodes es) (liveFrom 0 es) where
  size := by simp; omega
  leaves := List.prefix_rfl
  leafCount := by
    rw [← leafNodes_length es, List.countP_eq_length]
    intro node hnode
    obtain ⟨e, -, rfl⟩ := List.mem_map.1 hnode
    rfl
  live x hx := by
    rw [liveFrom_eq_map] at hx
    obtain ⟨⟨e, i⟩, he, rfl⟩ := List.mem_map.1 hx
    have hi := List.mem_zipIdx_iff_getElem?.1 he
    exact ⟨leafNode e.1 e.2, by simp [leafNodes_getElem?, hi], rfl⟩
  total := by rw [liveFrom_weight]; rfl
  weights node hnode := by
    obtain ⟨e, he, rfl⟩ := List.mem_map.1 hnode
    exact List.le_sum_of_mem (List.mem_map_of_mem he)
  internals i node hi hnode := by
    rw [List.getElem?_eq_none (by simpa using hi)] at hnode
    cases hnode
  parents c hc := by
    rw [leafNodes_links_count es hc, liveFrom_index, (List.nodup_range' 1).count]
    simp [List.mem_range'_1]
  newest h := by simp at h

/-! ### A combine step -/

/-- Below 512 a number survives as a node index. -/
theorem ofNat_index_eq_iff {k : Nat} (hk : k < 512) {c : NodeIndex} :
    BitVec.ofNat 9 k = c ↔ k = c.toNat := by
  rw [← BitVec.toNat_inj, BitVec.toNat_ofNat, Nat.mod_eq_of_lt hk]

theorem Forest.index_lt {es : List (Symbol × Nat)} {ns : List TreeNode} {q : List Live} {x : Live}
    (h : Forest es ns q) (hx : x ∈ q) : x.index < ns.length := by
  obtain ⟨node, hnode, -⟩ := h.live x hx
  exact (List.getElem?_eq_some_iff.1 hnode).1

theorem getElem?_append_of_some {α : Type} {l : List α} {i : Nat} {a : α} (tail : List α)
    (h : l[i]? = some a) : (l ++ tail)[i]? = some a := by
  rw [List.getElem?_append_left (List.getElem?_eq_some_iff.1 h).1, h]

section Step

variable {es : List (Symbol × Nat)} {ns : List TreeNode} {q rest : List Live} {a b : Live}
  (hle : es.length ≤ Config.symbolCount) (h : Forest es ns q) (hq : q.Perm (a :: b :: rest))

include hle h hq

/-- Two nodes are live, so at most 2N − 2 of the 2N − 1 nodes are made. -/
theorem Forest.length_lt : ns.length < 511 := by
  have hle : es.length ≤ 256 := hle
  have hsize := h.size
  have hlen : q.length = rest.length + 2 := by simpa using hq.length_eq
  omega

/-- The new node's links lead to the two nodes taken, whose weights it adds. -/
theorem Forest.step_internals (i : Nat) (node : TreeNode) (hi : es.length ≤ i)
    (hnode : (ns ++ [a.parentNode b])[i]? = some node) :
    ∃ l r x y, node = internalNode (x.weight + y.weight) l r ∧ l.toNat < i ∧ r.toNat < i ∧
      (ns ++ [a.parentNode b])[l.toNat]? = some x ∧ (ns ++ [a.parentNode b])[r.toNat]? = some y := by
  by_cases hlt : i < ns.length
  · rw [List.getElem?_append_left hlt] at hnode
    obtain ⟨l, r, x, y, hnode, hl, hr, hx, hy⟩ := h.internals i node hi hnode
    exact ⟨l, r, x, y, hnode, hl, hr, getElem?_append_of_some _ hx, getElem?_append_of_some _ hy⟩
  · obtain rfl : i = ns.length := by
      have := (List.getElem?_eq_some_iff.1 hnode).1
      rw [List.length_append, List.length_singleton] at this
      omega
    have hlen := h.length_lt hle hq
    have htoNat : ∀ {x : Live}, x ∈ q → (BitVec.ofNat 9 x.index).toNat = x.index := fun hx => by
      have := h.index_lt hx
      rw [BitVec.toNat_ofNat, Nat.mod_eq_of_lt (by omega)]
    have hqa : a ∈ q := hq.mem_iff.2 (by simp)
    have hqb : b ∈ q := hq.mem_iff.2 (by simp)
    obtain ⟨x, hx, hwx⟩ := h.live a hqa
    obtain ⟨y, hy, hwy⟩ := h.live b hqb
    refine ⟨BitVec.ofNat 9 a.index, BitVec.ofNat 9 b.index, x, y, ?_, ?_, ?_, ?_, ?_⟩
    · simpa [hwx, hwy, Live.parentNode] using hnode.symm
    · rw [htoNat hqa]; exact h.index_lt hqa
    · rw [htoNat hqb]; exact h.index_lt hqb
    · rw [htoNat hqa]; exact getElem?_append_of_some _ hx
    · rw [htoNat hqb]; exact getElem?_append_of_some _ hy

/-- The two nodes taken are no longer live but children, and the new node is live. -/
theorem Forest.step_parents (c : NodeIndex) (hc : c ≠ NIL) :
    ((ns ++ [a.parentNode b]).flatMap (fun node => [node.left, node.right])).count c +
        (ns.length :: rest.map (·.index)).count c.toNat =
      if c.toNat < ns.length + 1 then 1 else 0 := by
  have hlen := h.length_lt hle hq
  have ha := h.index_lt (hq.mem_iff.2 (by simp) : a ∈ q)
  have hb := h.index_lt (hq.mem_iff.2 (by simp) : b ∈ q)
  have hac := ofNat_index_eq_iff (c := c) (show a.index < 512 by omega)
  have hbc := ofNat_index_eq_iff (c := c) (show b.index < 512 by omega)
  have hcount := h.parents c hc
  rw [(hq.map _).count_eq] at hcount
  simp only [List.flatMap_append, List.flatMap_cons, List.flatMap_nil, List.append_nil,
    List.count_append, List.map_cons, List.count_cons, List.count_nil, Live.parentNode, internalNode,
    beq_iff_eq, hac, hbc] at hcount ⊢
  split_ifs at hcount ⊢ <;> omega

/-- A combine step keeps the forest: two live nodes become the children of a new live node (R93). -/
theorem Forest.step : Forest es (ns ++ [a.parentNode b])
    ({ weight := a.weight + b.weight, index := ns.length } :: rest) := by
  have hsum : a.weight + (b.weight + (rest.map (·.weight)).sum) = totalCount es := by
    rw [← h.total, (hq.map _).sum_eq]
    simp
  constructor
  case size =>
    have hsize := h.size
    have hlen : q.length = rest.length + 2 := by simpa using hq.length_eq
    simp only [List.length_append, List.length_cons, List.length_nil]
    omega
  case leaves => exact h.leaves.trans (List.prefix_append _ _)
  case leafCount => simpa [Live.parentNode, internalNode] using h.leafCount
  case live =>
    intro x hx
    rcases List.mem_cons.1 hx with rfl | hx
    · exact ⟨_, List.getElem?_concat_length, rfl⟩
    · obtain ⟨node, hnode, hw⟩ := h.live x (hq.mem_iff.2 (by simp [hx]))
      exact ⟨node, getElem?_append_of_some _ hnode, hw⟩
  case total => simpa [Nat.add_assoc] using hsum
  case weights =>
    intro node hnode
    rcases List.mem_append.1 hnode with hnode | hnode
    · exact h.weights node hnode
    · rw [List.mem_singleton.1 hnode]
      show a.weight + b.weight ≤ totalCount es
      omega
  case internals => exact h.step_internals hle hq
  case parents => simpa using h.step_parents hle hq
  case newest => exact fun _ => ⟨_, List.mem_cons_self, by simp⟩

end Step

/-! ## The tree -/

/-- Two or more entries: the loop ends with one tree over all nodes, its root the node made last (R94). -/
theorem treeNodes_forest {es : List (Symbol × Nat)} (h2 : 2 ≤ es.length)
    (hle : es.length ≤ Config.symbolCount) :
    ∃ x, Forest es (treeNodes es) [x] ∧ x.index + 1 = (treeNodes es).length := by
  have hq : liveFrom 0 es ≠ [] := by
    rw [ne_eq, ← List.length_eq_zero_iff, liveFrom_length]
    omega
  obtain ⟨x, hx⟩ := combine_keeps (P := Forest es) (fuel := es.length)
    (fun ns q a b q1 q2 ha hb h =>
      h.step hle ((extractMin_perm ha).trans ((extractMin_perm hb).cons a)))
    hq (by simp) (Forest.init es)
  rw [leafNodes_length, ← treeNodes_many h2] at hx
  have hsize := hx.size
  simp only [List.length_cons, List.length_nil] at hsize
  obtain ⟨y, hy, hlast⟩ := hx.newest (by omega)
  rw [List.mem_singleton.1 hy] at hlast
  exact ⟨x, hx, hlast⟩

/-- A tree has one entry and its two nodes, or is what the combine loop leaves (R94, R95). -/
theorem treeNodes_cases {es : List (Symbol × Nat)} (h : es ≠ []) (hle : es.length ≤ Config.symbolCount) :
    (∃ e, es = [e]) ∨
    ∃ x, Forest es (treeNodes es) [x] ∧ x.index + 1 = (treeNodes es).length := by
  by_cases h1 : es.length = 1
  · exact .inl (List.length_eq_one_iff.1 h1)
  · have := List.length_pos_iff.2 h
    exact .inr (treeNodes_forest (by omega) hle)

/-- The leaves of a tree come first, one per entry, in the entries' order (R91, R99). -/
theorem treeNodes_leaves {es : List (Symbol × Nat)} (h : es ≠ []) : leafNodes es <+: treeNodes es := by
  by_cases h1 : es.length = 1
  · obtain ⟨e, rfl⟩ := List.length_eq_one_iff.1 h1
    exact ⟨[_], rfl⟩
  · have := List.length_pos_iff.2 h
    rw [treeNodes_many (by omega)]
    exact List.prefix_append _ _

/-- Node i of a tree is the leaf of entry i, for every entry. -/
theorem treeNodes_getElem?_leaf {es : List (Symbol × Nat)} {i : Nat} {e : Symbol × Nat}
    (he : es[i]? = some e) : (treeNodes es)[i]? = some (leafNode e.1 e.2) := by
  obtain ⟨tail, htail⟩ := treeNodes_leaves (es := es) (by rintro rfl; cases he)
  have hi : i < (leafNodes es).length := by
    rw [leafNodes_length]
    exact (List.getElem?_eq_some_iff.1 he).1
  rw [← htail, List.getElem?_append_left hi, leafNodes_getElem?, he]
  rfl

/-- A tree has as many leaves as there are entries (R100 (a)). -/
theorem leafCount_treeNodes {es : List (Symbol × Nat)} (h : es ≠ [])
    (hle : es.length ≤ Config.symbolCount) : leafCount (Store.ofList (treeNodes es)) = es.length := by
  rcases treeNodes_cases h hle with ⟨e, rfl⟩ | ⟨x, hx, -⟩
  · rfl
  · rw [leafCount_ofList, hx.leafCount]

/-- No weight in a tree is above the total count (R97, R157). -/
theorem treeNodes_weight_le {es : List (Symbol × Nat)} (h : es ≠ [])
    (hle : es.length ≤ Config.symbolCount) : ∀ node ∈ treeNodes es, node.weight ≤ totalCount es := by
  rcases treeNodes_cases h hle with ⟨e, rfl⟩ | ⟨x, hx, -⟩
  · simp [treeNodes, leafNode, internalNode, totalCount]
  · exact hx.weights

/-- Every node of a tree but the last is the child of exactly one node (R100). -/
theorem treeNodes_parents {es : List (Symbol × Nat)} (h : es ≠ [])
    (hle : es.length ≤ Config.symbolCount) (c : NodeIndex) (hc : c.toNat + 1 < (treeNodes es).length) :
    (childLinks (Store.ofList (treeNodes es))).count c = 1 := by
  rcases treeNodes_cases h hle with ⟨e, rfl⟩ | ⟨x, hx, hlast⟩
  · have hc0 : c = 0#9 := BitVec.eq_of_toNat_eq (by simp [treeNodes] at hc; simp; omega)
    subst hc0
    rfl
  · have hlen := treeNodes_length_le hle
    have hnil : c ≠ NIL := by
      rintro rfl
      simp [Config.nodeCapacity] at hlen hc
      omega
    have hcount := hx.parents c hnil
    rw [if_pos (by omega), List.map_singleton, List.count_singleton, if_neg (by simp; omega)] at hcount
    rwa [childLinks_ofList]

/-- The nodes of every tree BUILD makes have the shape of R30 (b): the entries in ascending order of the
symbol, and their total within W_W bits (R97, R100). -/
theorem treeNodes_shape {es : List (Symbol × Nat)} {p : Params} (h : es ≠ [])
    (hle : es.length ≤ Config.symbolCount) (hsorted : es.Pairwise (fun a b => a.1.toNat < b.1.toNat))
    (htotal : totalCount es ≤ 2 ^ p.weightWidth - 1) :
    TreeShape p (Store.ofList (treeNodes es)) (BitVec.ofNat 9 ((treeNodes es).length - 1))
      (BitVec.ofNat 9 (treeNodes es).length) := by
  have hpos := List.length_pos_iff.2 h
  have hlen := treeNodes_length h
  have hcap : (treeNodes es).length ≤ 511 := treeNodes_length_le hle
  have hnn : (BitVec.ofNat 9 (treeNodes es).length).toNat = (treeNodes es).length := by
    rw [BitVec.toNat_ofNat, Nat.mod_eq_of_lt (by omega)]
  have hroot : (BitVec.ofNat 9 ((treeNodes es).length - 1)).toNat = (treeNodes es).length - 1 := by
    rw [BitVec.toNat_ofNat, Nat.mod_eq_of_lt (by omega)]
  have hcount := leafCount_treeNodes h hle
  constructor
  case leafBound => rw [hcount]; exact ⟨hpos, hle⟩
  case nodeCount => rw [hnn, hcount, hlen]
  case rootLast =>
    rw [hnn, hroot]
    split_ifs at hlen <;> omega
  case entries => intro i; simp [hnn]
  case leaves =>
    intro i hi
    rw [hcount] at hi
    exact ⟨_, _, by rw [Store.read_ofList, treeNodes_getElem?_leaf (List.getElem?_eq_getElem hi)]⟩
  case rising =>
    intro i j a b hij hj ha hb
    rw [hcount] at hj
    have hi : i < es.length := hij.trans hj
    rw [Store.read_ofList, treeNodes_getElem?_leaf (List.getElem?_eq_getElem hi)] at ha
    rw [Store.read_ofList, treeNodes_getElem?_leaf (List.getElem?_eq_getElem hj)] at hb
    cases ha
    cases hb
    exact List.pairwise_iff_getElem.1 hsorted i j hi hj hij
  case internals =>
    intro h2 i hi hlt
    rw [hcount] at h2 hi
    rw [hnn] at hlt
    obtain ⟨x, hx, -⟩ := treeNodes_forest h2 hle
    obtain ⟨l, r, a, b, hnode, hl, hr, ha, hb⟩ := hx.internals i _ hi (List.getElem?_eq_getElem hlt)
    exact ⟨l, r, a, b, by rw [Store.read_ofList, List.getElem?_eq_getElem hlt, hnode], hl, hr,
      by rw [Store.read_ofList, ha], by rw [Store.read_ofList, hb]⟩
  case single =>
    intro h1
    obtain ⟨e, rfl⟩ := List.length_eq_one_iff.1 (hcount ▸ h1)
    exact ⟨leafNode e.1 e.2, rfl, rfl⟩
  case parents =>
    intro c hc
    rw [hnn] at hc
    exact treeNodes_parents h hle c hc
  case weights =>
    intro i node hnode
    rw [Store.read_ofList] at hnode
    have hw := treeNodes_weight_le h hle node (List.mem_of_getElem? hnode)
    have := Nat.two_pow_pos p.weightWidth
    omega

end Sys2Proof.Machine
end

section
/-! On a tree of the shape of R30 (b), the table GEN writes is the tree's code table (R30 (c)): the walk
reads the tree out of TM, and no leaf is reached by two paths. -/

namespace Sys2Proof.Machine

/-! ## Links of TM -/

/-- The child a digit selects: 0 the left, 1 the right (R105, R126). -/
def TreeNode.child (node : TreeNode) (d : Digit) : NodeIndex := if d then node.right else node.left

@[simp] theorem TreeNode.child_false (node : TreeNode) : node.child false = node.left := rfl
@[simp] theorem TreeNode.child_true (node : TreeNode) : node.child true = node.right := rfl

theorem Store.mem_of_read {α : Type} {st : Store α} {i : Nat} {a : α} (h : st.read i = some a) :
    (i, a) ∈ st := by
  induction st with
  | nil => cases h
  | cons c rest ih =>
    obtain ⟨k, b⟩ := c
    rw [Store.read_cons] at h
    split_ifs at h with hk
    · cases h
      simp [hk]
    · exact List.mem_cons_of_mem _ (ih h)

theorem TreeNode.child_mem_links (node : TreeNode) (d : Digit) : node.child d ∈ [node.left, node.right] := by
  cases d <;> simp

/-- A node whose two links are equal has the same child on both sides. -/
theorem TreeNode.count_links_eq_two (node : TreeNode) {d e : Digit} (h : node.child e = node.child d)
    (hde : d ≠ e) : [node.left, node.right].count (node.child d) = 2 := by
  have hlr : node.left = node.right := by cases d <;> cases e <;> simp_all
  cases d <;> simp [hlr]

theorem mem_childLinks {tm : Store TreeNode} {i : Nat} {node : TreeNode} (h : (i, node) ∈ tm) (d : Digit) :
    node.child d ∈ childLinks tm := List.mem_flatMap.2 ⟨_, h, node.child_mem_links d⟩

/-- The links of TM are the two of one entry and those of the other entries. -/
theorem count_childLinks_of_mem {tm : Store TreeNode} {i : Nat} {node : TreeNode} (h : (i, node) ∈ tm)
    (c : NodeIndex) : (childLinks tm).count c =
      [node.left, node.right].count c + (childLinks (List.erase tm (i, node))).count c := by
  rw [childLinks, ((List.perm_cons_erase h).flatMap_right _).count_eq, List.flatMap_cons, List.count_append]
  rfl

/-- A node that is a child only once in TM has one parent, on one side. -/
theorem child_unique {tm : Store TreeNode} {m n : NodeIndex} {x y : TreeNode} {d e : Digit}
    (hcount : (childLinks tm).count (x.child d) = 1) (hx : tm.read m.toNat = some x)
    (hy : tm.read n.toNat = some y) (heq : y.child e = x.child d) : m = n ∧ d = e := by
  have hsplit := count_childLinks_of_mem (Store.mem_of_read hx) (x.child d)
  rw [hcount] at hsplit
  by_cases hmn : m = n
  · subst hmn
    obtain rfl : x = y := Option.some.inj (hx.symm.trans hy)
    refine ⟨rfl, ?_⟩
    by_contra hde
    have htwice := x.count_links_eq_two heq hde
    omega
  · have hrest : (n.toNat, y) ∈ List.erase tm (m.toNat, x) :=
      (List.mem_erase_of_ne (fun h => hmn (BitVec.eq_of_toNat_eq (Prod.mk.inj h).1.symm))).2
        (Store.mem_of_read hy)
    have hone := List.one_le_count_iff.2 (x.child_mem_links d)
    have hmore := List.one_le_count_iff.2 (heq ▸ mem_childLinks hrest e)
    omega

section Shape

variable {p : Params} {tm : Store TreeNode} {root nnodes : BitVec 9}

theorem TreeShape.read_lt (h : TreeShape p tm root nnodes) {i : Nat} {node : TreeNode}
    (hi : tm.read i = some node) : i < nnodes.toNat := (h.entries i).1 (by rw [hi]; rfl)

/-- Every node of a tree is a leaf, one of the first N, or an internal node above them whose links that
are not NIL lead to nodes before it. -/
theorem TreeShape.node_cases (h : TreeShape p tm root nnodes) {i : Nat} {node : TreeNode}
    (hi : tm.read i = some node) :
    (i < leafCount tm ∧ node.kind = .leaf ∧ ∀ d, node.child d = NIL) ∨
    (leafCount tm ≤ i ∧ node.kind = .internal ∧ ∀ d, node.child d ≠ NIL → (node.child d).toNat < i) := by
  have hlt := h.read_lt hi
  obtain ⟨hpos, -⟩ := h.leafBound
  have hnodes := h.nodeCount
  by_cases hleaf : i < leafCount tm
  · obtain ⟨sym, w, hnode⟩ := h.leaves i hleaf
    obtain rfl := Option.some.inj (hi.symm.trans hnode)
    exact .inl ⟨hleaf, rfl, fun d => by cases d <;> rfl⟩
  · refine .inr ⟨Nat.not_lt.1 hleaf, ?_⟩
    by_cases h1 : leafCount tm = 1
    · obtain ⟨a, -, hnode⟩ := h.single h1
      obtain rfl : i = 1 := by rw [if_pos h1] at hnodes; omega
      obtain rfl := Option.some.inj (hi.symm.trans hnode)
      exact ⟨rfl, fun d hd => by cases d <;> simp_all [internalNode]⟩
    · obtain ⟨l, r, a, b, hnode, hl, hr, -, -⟩ := h.internals (by omega) i (by omega) hlt
      obtain rfl := Option.some.inj (hi.symm.trans hnode)
      exact ⟨rfl, fun d _ => by cases d <;> assumption⟩

/-- A link that is not NIL leads to an earlier node (R100). -/
theorem TreeShape.child_lt (h : TreeShape p tm root nnodes) {i : Nat} {node : TreeNode} {d : Digit}
    (hi : tm.read i = some node) (hd : node.child d ≠ NIL) : (node.child d).toNat < i := by
  rcases h.node_cases hi with ⟨-, -, hnil⟩ | ⟨-, -, hlt⟩
  · exact absurd (hnil d) hd
  · exact hlt d hd

theorem TreeShape.leaf_lt (h : TreeShape p tm root nnodes) {i : Nat} {node : TreeNode}
    (hi : tm.read i = some node) (hleaf : node.kind = .leaf) : i < leafCount tm := by
  rcases h.node_cases hi with ⟨hlt, -, -⟩ | ⟨-, hint, -⟩
  · exact hlt
  · rw [hleaf] at hint
    cases hint

/-- The root is no leaf (R95, R100). -/
theorem TreeShape.leafCount_le_root (h : TreeShape p tm root nnodes) : leafCount tm ≤ root.toNat := by
  have hnodes := h.nodeCount
  have hroot := h.rootLast
  obtain ⟨hpos, -⟩ := h.leafBound
  split_ifs at hnodes <;> omega

theorem TreeShape.root_ne_nil (h : TreeShape p tm root nnodes) : root ≠ NIL := by
  rintro rfl
  have hroot := h.rootLast
  have hlt := nnodes.isLt
  simp at hroot
  omega

/-- No two leaves have the same symbol (R91). -/
theorem TreeShape.leaf_unique (h : TreeShape p tm root nnodes) {m n : NodeIndex} {x y : TreeNode}
    (hx : tm.read m.toNat = some x) (hy : tm.read n.toNat = some y) (hxl : x.kind = .leaf)
    (hyl : y.kind = .leaf) (hsym : x.sym = y.sym) : m = n := by
  refine BitVec.eq_of_toNat_eq ?_
  have hm := h.leaf_lt hx hxl
  have hn := h.leaf_lt hy hyl
  rcases Nat.lt_trichotomy m.toNat n.toNat with hlt | heq | hlt
  · have := h.rising _ _ _ _ hlt hn hx hy
    rw [hsym] at this
    omega
  · exact heq
  · have := h.rising _ _ _ _ hlt hm hy hx
    rw [hsym] at this
    omega

/-! ## Paths from the root (R105) -/

/-- The node that a path leads to, from the root, each digit a link that is not NIL. -/
inductive Reaches (tm : Store TreeNode) (root : NodeIndex) : NodeIndex → List Digit → Prop where
  | start : Reaches tm root root []
  | step {n : NodeIndex} {path : List Digit} {node : TreeNode} (d : Digit) :
      Reaches tm root n path → tm.read n.toNat = some node → node.child d ≠ NIL →
      Reaches tm root (node.child d) (path ++ [d])

theorem Reaches.cases_node {m : NodeIndex} {path : List Digit} (h : Reaches tm root m path) :
    (m = root ∧ path = []) ∨
    ∃ n front node d, Reaches tm root n front ∧ tm.read n.toNat = some node ∧ node.child d ≠ NIL ∧
      m = node.child d ∧ path = front ++ [d] := by
  cases h with
  | start => exact .inl ⟨rfl, rfl⟩
  | step d hn hnode hd => exact .inr ⟨_, _, _, d, hn, hnode, hd, rfl, rfl⟩

/-- A child is a node below the root. -/
theorem TreeShape.child_lt_root (h : TreeShape p tm root nnodes) {n : NodeIndex} {node : TreeNode}
    {d : Digit} (hn : tm.read n.toNat = some node) (hd : node.child d ≠ NIL) :
    (node.child d).toNat < root.toNat := by
  have := h.child_lt hn hd
  have := h.read_lt hn
  have := h.rootLast
  omega

/-- Every node of a tree is reached by one path only: each but the root has one parent (R30 (b)). -/
theorem TreeShape.path_unique (h : TreeShape p tm root nnodes) {m : NodeIndex} {q r : List Digit}
    (hq : Reaches tm root m q) (hr : Reaches tm root m r) : q = r := by
  induction hq generalizing r with
  | start =>
    rcases hr.cases_node with ⟨-, rfl⟩ | ⟨n, front, node, d, -, hnode, hd, hroot, -⟩
    · rfl
    · have := h.child_lt_root hnode hd
      rw [← hroot] at this
      omega
  | @step n front node d hn hnode hd ih =>
    have hlt := h.child_lt_root hnode hd
    rcases hr.cases_node with ⟨hroot, -⟩ | ⟨n', front', node', d', hn', hnode', hd', heq, rfl⟩
    · rw [hroot] at hlt
      omega
    · have hroot := h.rootLast
      have hone := h.parents (node.child d) (by omega)
      obtain ⟨rfl, rfl⟩ := child_unique hone hnode hnode' heq.symm
      rw [ih hn']

end Shape

/-! ## The walk (R109) -/

/-- What the walk takes from one child: nothing for NIL, otherwise the walk of the child's tree. -/
def WalksChild (tm : Store TreeNode) (fuel : Nat) (n : NodeIndex) (path : List Digit)
    (codes : List (Symbol × List Digit)) : Prop :=
  (n = NIL ∧ codes = []) ∨ (n ≠ NIL ∧ walk tm fuel n path = .ok codes)

theorem walksChild_of_eq {tm : Store TreeNode} {fuel : Nat} {n : NodeIndex} {path : List Digit}
    {codes : List (Symbol × List Digit)}
    (h : (if n = NIL then .ok [] else walk tm fuel n path) = Except.ok codes) :
    WalksChild tm fuel n path codes := by
  split_ifs at h with hn
  · cases h
    exact .inl ⟨hn, rfl⟩
  · exact .inr ⟨hn, h⟩

/-- A walk that ends is at a leaf, or at an internal node with both children walked (R109). -/
theorem walk_ok {tm : Store TreeNode} {fuel : Nat} {n : NodeIndex} {path : List Digit}
    {codes : List (Symbol × List Digit)} (h : walk tm (fuel + 1) n path = .ok codes) :
    ∃ node, tm.read n.toNat = some node ∧
      ((node.kind = .leaf ∧ codes = [(node.sym, path)]) ∨
       (node.kind = .internal ∧ ∃ l r, WalksChild tm fuel (node.child false) (path ++ [false]) l ∧
          WalksChild tm fuel (node.child true) (path ++ [true]) r ∧ codes = l ++ r)) := by
  rw [walk] at h
  split at h
  · cases h
  · rename_i node hnode
    refine ⟨node, hnode, ?_⟩
    split at h
    · rename_i hkind
      cases h
      exact .inl ⟨hkind, rfl⟩
    · rename_i hkind
      split at h
      · cases h
      · rename_i l hl
        split at h
        · cases h
        · rename_i r hr
          cases h
          exact .inr ⟨hkind, l, r, walksChild_of_eq hl, walksChild_of_eq hr, rfl⟩

/-- More fuel reads the same tree. -/
theorem treeOfWithin_mono {tm : Store TreeNode} {fuel : Nat} {n : NodeIndex} {T : Tree}
    (h : treeOfWithin tm fuel n = some T) {more : Nat} (hle : fuel ≤ more) :
    treeOfWithin tm more n = some T := by
  induction fuel generalizing n T more with
  | zero => cases h
  | succ fuel ih =>
    obtain ⟨more, rfl⟩ : ∃ k, more = k + 1 := ⟨more - 1, by omega⟩
    have ih' : ∀ {n T}, treeOfWithin tm fuel n = some T → treeOfWithin tm more n = some T :=
      fun h => ih h (by omega)
    rw [treeOfWithin] at h ⊢
    split_ifs at h ⊢ with hn
    · exact h
    · split at h
      · cases h
      · split at h
        · exact h
        · split at h
          · rename_i l r hl hr
            simpa [ih' hl, ih' hr] using h
          · cases h

/-- The walk's codes are the paths of the tree that TM holds below the node (R105, R109). -/
theorem walk_paths {tm : Store TreeNode} {fuel : Nat} {n : NodeIndex} {path : List Digit}
    {codes : List (Symbol × List Digit)} (hn : n ≠ NIL) (h : walk tm fuel n path = .ok codes) :
    ∃ T, treeOfWithin tm (fuel + 1) n = some T ∧ codes = paths T path := by
  induction fuel generalizing n path codes with
  | zero => cases h
  | succ fuel ih =>
    have hchild : ∀ {m q cs}, WalksChild tm fuel m q cs →
        ∃ T, treeOfWithin tm (fuel + 1) m = some T ∧ cs = paths T q := by
      rintro m q cs (⟨rfl, rfl⟩ | ⟨hm, hw⟩)
      · exact ⟨.missing, by simp [treeOfWithin], rfl⟩
      · exact ih hm hw
    obtain ⟨node, hnode, ⟨hkind, rfl⟩ | ⟨hkind, l, r, hl, hr, rfl⟩⟩ := walk_ok h
    · exact ⟨.leaf node.sym node.weight, by rw [treeOfWithin]; simp [hn, hnode, hkind], rfl⟩
    · obtain ⟨L, hL, rfl⟩ := hchild hl
      obtain ⟨R, hR, rfl⟩ := hchild hr
      rw [TreeNode.child_false] at hL
      rw [TreeNode.child_true] at hR
      exact ⟨.node node.weight L R, by rw [treeOfWithin]; simp [hn, hnode, hkind, hL, hR], rfl⟩

/-- Every code of the walk is the path to a leaf with its symbol, no longer than the fuel allows. -/
theorem walk_reaches {tm : Store TreeNode} {root n : NodeIndex} {fuel : Nat} {path : List Digit}
    {codes : List (Symbol × List Digit)} (hn : Reaches tm root n path)
    (h : walk tm fuel n path = .ok codes) {c : Symbol × List Digit} (hc : c ∈ codes) :
    c.2.length < path.length + fuel ∧
    ∃ m leaf, Reaches tm root m c.2 ∧ tm.read m.toNat = some leaf ∧ leaf.kind = .leaf ∧ leaf.sym = c.1 := by
  induction fuel generalizing n path codes with
  | zero => cases h
  | succ fuel ih =>
    obtain ⟨node, hnode, ⟨hkind, rfl⟩ | ⟨hkind, l, r, hl, hr, rfl⟩⟩ := walk_ok h
    · rw [List.mem_singleton.1 hc]
      exact ⟨by simp, n, node, hn, hnode, hkind, rfl⟩
    · obtain ⟨d, cs, hcs, hw⟩ :
          ∃ d cs, c ∈ cs ∧ WalksChild tm fuel (node.child d) (path ++ [d]) cs := by
        rcases List.mem_append.1 hc with hc | hc
        · exact ⟨false, l, hc, hl⟩
        · exact ⟨true, r, hc, hr⟩
      rcases hw with ⟨-, rfl⟩ | ⟨hd, hw⟩
      · cases hcs
      · obtain ⟨hlen, hleaf⟩ := ih (.step d hn hnode hd) hw hcs
        refine ⟨?_, hleaf⟩
        rw [List.length_append, List.length_singleton] at hlen
        omega

/-! ## The table -/

/-- A list of codes in which no symbol has two different codes. -/
def Consistent (codes : List (Symbol × List Digit)) : Prop :=
  ∀ sym p q, (sym, p) ∈ codes → (sym, q) ∈ codes → p = q

theorem mem_of_lookup {codes : List (Symbol × List Digit)} {sym : Symbol} {p : List Digit}
    (h : codes.lookup sym = some p) : (sym, p) ∈ codes := by
  obtain ⟨before, after, rfl, -⟩ := List.lookup_eq_some_iff.1 h
  simp

/-- The table written from consistent codes holds each symbol's code, and else what it held before. -/
theorem read_foldl_write {codes : List (Symbol × List Digit)} (h : Consistent codes)
    (table : Store CodeEntry) (sym : Symbol) :
    (codes.foldl (fun table c => Store.write table c.1.toNat (CodeEntry.ofDigits c.2)) table).read
        sym.toNat =
      ((codes.lookup sym).map CodeEntry.ofDigits).or (table.read sym.toNat) := by
  induction codes generalizing table with
  | nil => simp
  | cons c rest ih =>
    obtain ⟨x, p⟩ := c
    have hrest : Consistent rest := fun y q r hq hr =>
      h y q r (List.mem_cons_of_mem _ hq) (List.mem_cons_of_mem _ hr)
    rw [List.foldl_cons, ih hrest]
    by_cases hx : sym = x
    · subst hx
      rw [List.lookup_cons_self, Store.read_write_same]
      cases hl : rest.lookup sym with
      | none => simp
      | some q =>
        obtain rfl := h sym p q List.mem_cons_self (List.mem_cons_of_mem _ (mem_of_lookup hl))
        simp
    · rw [Store.read_write_other _ (fun heq => hx (BitVec.eq_of_toNat_eq heq))]
      rw [List.lookup_cons, beq_eq_false_iff_ne.2 hx]

/-- The table GEN writes from consistent codes holds exactly each symbol's code (R109). -/
theorem read_codeTable {codes : List (Symbol × List Digit)} (h : Consistent codes) (sym : Symbol) :
    (codeTable codes).read sym.toNat = (codes.lookup sym).map CodeEntry.ofDigits := by
  rw [codeTable, read_foldl_write h, Store.read_nil, Option.or_none]

/-- The codes of a tree of the shape of R30 (b) are consistent: one leaf per symbol, one path per leaf. -/
theorem TreeShape.walk_consistent {p : Params} {tm : Store TreeNode} {root nnodes : BitVec 9}
    (h : TreeShape p tm root nnodes) {fuel : Nat} {codes : List (Symbol × List Digit)}
    (hw : walk tm fuel root [] = .ok codes) : Consistent codes := by
  intro sym q r hq hr
  obtain ⟨-, m, x, hmq, hx, hxl, hxs⟩ := walk_reaches .start hw hq
  obtain ⟨-, n, y, hnr, hy, hyl, hys⟩ := walk_reaches .start hw hr
  obtain rfl := h.leaf_unique hx hy hxl hyl (hxs.trans hys.symm)
  exact h.path_unique hmq hnr

/-- A code of a tree has at least one digit: the root is no leaf (R95). -/
theorem TreeShape.walk_path_ne_nil {p : Params} {tm : Store TreeNode} {root nnodes : BitVec 9}
    (h : TreeShape p tm root nnodes) {fuel : Nat} {codes : List (Symbol × List Digit)}
    (hw : walk tm fuel root [] = .ok codes) {c : Symbol × List Digit} (hc : c ∈ codes) : c.2 ≠ [] := by
  intro hnil
  obtain ⟨-, m, leaf, hm, hleaf, hkind, -⟩ := walk_reaches .start hw hc
  have hlt := h.leaf_lt hleaf hkind
  have hroot := h.leafCount_le_root
  rw [hnil] at hm
  obtain rfl : m = root := by
    rcases hm.cases_node with ⟨rfl, -⟩ | ⟨_, front, _, d, -, -, -, -, hpath⟩
    · rfl
    · simp at hpath
  omega

/-- On a tree of the shape of R30 (b), GEN's table is the code table of the tree (R30 (c), R109). -/
theorem codesMatch_putCodes {s : State} (h : TreeShape s.params s.tm s.root s.nnodes)
    {codes : List (Symbol × List Digit)}
    (hw : walk s.tm (Config.codeCapacity + 1) s.root [] = .ok codes) :
    CodesMatch (s.putCodes (codeTable codes)) := by
  obtain ⟨T, hT, rfl⟩ := walk_paths h.root_ne_nil hw
  refine ⟨T, treeOfWithin_mono hT (by decide), fun sym => ⟨?_, fun q hq => ?_⟩⟩
  · exact read_codeTable (h.walk_consistent hw) sym
  · have hmem := mem_of_lookup hq
    have hlt := (walk_reaches .start hw hmem).1
    simp only [List.length_nil] at hlt
    exact ⟨List.length_pos_iff.2 (h.walk_path_ne_nil hw hmem), by omega⟩

end Sys2Proof.Machine
end

section
/-! The invariants of R30 through each update of the state, each command, and so each step. -/

namespace Sys2Proof.Machine

variable {s t : State}

/-! ## The updates of the state -/

theorem Inv.pending (h : Inv s) (l : List HostEvent) : Inv { s with pending := l } := { h with }

theorem Inv.endWith (h : Inv s) (e : Status) : Inv (s.endWith e) := { h with }

theorem Inv.respond (h : Inv s) (r : Response) : Inv (s.respond r) := { h with }

theorem Inv.applyReset (h : Inv s) : Inv s.applyReset := { Inv.resetOf h.params with }

theorem Inv.dropCodes (h : Inv s) : Inv s.dropCodes :=
  { h with
    memory := Memory.wf_dropCodes h.memory
    flags := fun hc => by cases hc
    codes := fun hc => by cases hc
    noCodes := fun _ => rfl }

/-- A tree may go once its code table is gone (R30 (a)). -/
theorem Inv.dropTree (h : Inv s) (hc : s.ctValid = false) : Inv s.dropTree :=
  { h with
    memory := Memory.wf_dropTree h.memory
    flags := fun hv => absurd (hc.symm.trans hv) Bool.false_ne_true
    tree := fun ht => by cases ht
    noTree := fun _ => rfl
    codes := fun hv => absurd (hc.symm.trans hv) Bool.false_ne_true }

theorem Inv.dropBits (h : Inv s) : Inv s.dropBits :=
  { h with
    memory := Memory.wf_dropBits h.memory
    lengths := ⟨h.lengths.1, Nat.zero_le _, h.lengths.2.2⟩ }

theorem Inv.dropOutput (h : Inv s) : Inv s.dropOutput :=
  { h with
    memory := Memory.wf_dropOutput h.memory
    lengths := ⟨h.lengths.1, h.lengths.2.1, Nat.zero_le _⟩ }

/-- A tree of the right shape may come while there is no code table (R98). -/
theorem Inv.putTree (h : Inv s) (hc : s.ctValid = false) {ns : List TreeNode}
    (hlen : ns.length ≤ Config.nodeCapacity)
    (hshape : TreeShape s.params (Store.ofList ns) (BitVec.ofNat 9 (ns.length - 1))
      (BitVec.ofNat 9 ns.length)) : Inv (s.putTree ns) :=
  { h with
    memory := Memory.wf_putTree h.memory hlen
    flags := fun _ => rfl
    tree := fun _ => hshape
    noTree := fun ht => by cases ht
    codes := fun hv => absurd (hc.symm.trans hv) Bool.false_ne_true }

/-- The code table of a valid tree may come (R109). -/
theorem Inv.putCodes (h : Inv s) (ht : s.treeValid = true) {codes : List (Symbol × List Digit)}
    (hcodes : CodesMatch (s.putCodes (codeTable codes))) : Inv (s.putCodes (codeTable codes)) :=
  { h with
    memory := Memory.wf_putCodes h.memory (codeTable_wf codes)
    flags := fun _ => ht
    codes := fun _ => hcodes
    noCodes := fun hc => by cases hc }

/-- A length that was stored is no more than the number it was made from. -/
theorem toNat_ofNat_le {w n bound : Nat} (h : n ≤ bound) : (BitVec.ofNat w n).toNat ≤ bound := by
  rw [BitVec.toNat_ofNat]
  exact (Nat.mod_le _ _).trans h

theorem Inv.putBits (h : Inv s) {out : List Digit} (hout : out.length ≤ s.params.bitCapacity) :
    Inv (s.putBits out) :=
  { h with
    memory := Memory.wf_putBits h.memory hout
    lengths := ⟨h.lengths.1, toNat_ofNat_le hout, h.lengths.2.2⟩ }

theorem Inv.putOutput (h : Inv s) {out : List Symbol} (hout : out.length ≤ s.params.symbolCapacity) :
    Inv (s.putOutput out) :=
  { h with
    memory := Memory.wf_putOutput h.memory hout
    lengths := ⟨h.lengths.1, h.lengths.2.1, toNat_ofNat_le hout⟩ }

theorem Inv.writeCount (h : Inv s) {i n : Nat} (hi : i < Config.symbolCount)
    (hn : n < 2 ^ s.params.weightWidth) : Inv (s.writeCount i n) :=
  { h with
    memory := Memory.wf_writeCount h.memory hi n
    counts := fun c hc => by
      rcases Store.mem_write hc with rfl | hc
      · exact hn
      · exact h.counts c hc }

theorem Inv.removeCount (h : Inv s) (i : Nat) : Inv (s.removeCount i) :=
  { h with
    memory := Memory.wf_removeCount h.memory i
    counts := fun c hc => h.counts c (List.mem_of_mem_filter hc) }

theorem Inv.writeSymbol (h : Inv s) {i : Nat} (hi : i < s.params.symbolCapacity) (a : Symbol) :
    Inv (s.writeSymbol i a) :=
  { h with memory := Memory.wf_writeSymbol h.memory hi a }

theorem Inv.writeDigit (h : Inv s) {i : Nat} (hi : i < s.params.bitCapacity) (d : Digit) :
    Inv (s.writeDigit i d) :=
  { h with memory := Memory.wf_writeDigit h.memory hi d }

theorem Inv.setSymbolLength (h : Inv s) {n : Length} (hn : n.toNat ≤ s.params.symbolCapacity) :
    Inv (s.setSymbolLength n) :=
  { h with lengths := ⟨hn, h.lengths.2⟩ }

theorem Inv.setBitLength (h : Inv s) {n : Length} (hn : n.toNat ≤ s.params.bitCapacity) :
    Inv (s.setBitLength n) :=
  { h with lengths := ⟨h.lengths.1, hn, h.lengths.2.2⟩ }

/-! ## Host writes -/

/-- An accepted write keeps the invariants: its index is in the space, its length in the capacity (R143). -/
theorem Inv.writeEntry (h : Inv s) {sp : Space} {i w : Nat} (hok : writable s.params sp i w = true) :
    Inv (s.writeEntry sp i w) := by
  rcases writeEntry_cases s sp i w with
    ⟨rfl, rfl, heq⟩ | ⟨rfl, rfl, heq⟩ | ⟨rfl, heq⟩ | ⟨rfl, heq⟩ | ⟨rfl, heq⟩ | ⟨rfl, heq⟩ | heq <;> rw [heq]
  · exact h.setSymbolLength (toNat_ofNat_le (by simpa [writable] using hok))
  · exact h.setBitLength (toNat_ofNat_le (by simpa [writable] using hok))
  · exact h.writeCount (of_decide_eq_true hok)
      (Nat.mod_lt _ (Nat.two_pow_pos _))
  · exact h.removeCount i
  · exact h.writeSymbol (of_decide_eq_true hok) _
  · exact h.writeDigit (of_decide_eq_true hok) _
  · exact h

/-! ## Commands -/

theorem Inv.execBuild (h : Inv s) (he : execBuild s = .next t) : Inv t := by
  have hdrop : Inv s.dropCodes.dropTree := h.dropCodes.dropTree rfl
  rcases execBuild_cases s with ⟨-, heq⟩ | ⟨-, -, heq⟩ | ⟨hne, htotal, heq⟩ <;> rw [heq] at he <;> cases he
  · exact hdrop.endWith _
  · exact hdrop.endWith _
  · have hle := presentEntries_length_le s.ft
    exact (h.dropCodes.putTree rfl (treeNodes_length_le hle)
      (treeNodes_shape hne hle (presentEntries_sorted s.ft) htotal)).endWith _

theorem Inv.execGen (h : Inv s) (he : execGen s = .next t) : Inv t := by
  rcases execGen_next he with ⟨-, rfl⟩ | ⟨ht, codes, hw, rfl⟩ | ⟨-, e, -, rfl⟩
  · exact h.dropCodes.endWith _
  · exact (h.putCodes ht (codesMatch_putCodes (h.tree ht) hw)).endWith _
  · exact h.dropCodes.endWith _

theorem Inv.execEnc (h : Inv s) (he : execEnc s = .next t) : Inv t := by
  rcases execEnc_next he with ⟨-, rfl⟩ | ⟨-, _, -, rfl⟩ | ⟨-, _, -, -, rfl⟩ | ⟨-, out, -, hout, rfl⟩
  · exact h.dropBits.endWith _
  · exact h.dropBits.endWith _
  · exact h.dropBits.endWith _
  · exact (h.putBits hout).endWith _

theorem Inv.execDec (h : Inv s) (he : execDec s = .next t) : Inv t := by
  rcases execDec_next he with ⟨-, rfl⟩ | ⟨-, _, -, rfl⟩ | ⟨-, _, -, -, rfl⟩ | ⟨-, out, -, hout, rfl⟩
  · exact h.dropOutput.endWith _
  · exact h.dropOutput.endWith _
  · exact h.dropOutput.endWith _
  · exact (h.putOutput hout).endWith _

theorem Inv.exec (h : Inv s) {i : Instr} (he : exec i s = .next t) : Inv t := by
  cases i with
  | build => exact h.execBuild he
  | gen => exact h.execGen he
  | enc => exact h.execEnc he
  | dec => exact h.execDec he
  | endSession =>
    cases he
    exact (h.dropCodes.dropTree rfl).endWith _

/-- Settles O20: every update of the state and every command keeps the invariants. BUILD's tree has the
shape of R30 (b) by the combine loop's invariant, GEN's table is the tree's by `codesMatch_putCodes`. -/
theorem stepKeepsTheInvariants : Obligations.StepKeepsTheInvariants := fun _ _ hs h =>
  step_keeps (P := Inv) (fun _ l hu => hu.pending l) (fun _ hu => hu.applyReset)
    (fun _ resp hu => hu.respond resp) (fun _ hu => hu.endWith _)
    (fun _ _ _ _ hok hu => hu.writeEntry hok) (fun _ _ _ he hu => hu.exec he) hs h

end Sys2Proof.Machine
end

section
/-! The canonical form of the six stores through accepted writes and commands, and so through each step. -/

namespace Sys2Proof.Machine

variable {s t : State}

/-- An accepted write names an index inside its space (R51, R143). -/
theorem Memory.wf_writeEntry (h : Memory.wf s) {sp : Space} {i w : Nat}
    (hok : writable s.params sp i w = true) : Memory.wf (s.writeEntry sp i w) := by
  rcases writeEntry_cases s sp i w with
    ⟨-, -, heq⟩ | ⟨-, -, heq⟩ | ⟨rfl, heq⟩ | ⟨rfl, heq⟩ | ⟨rfl, heq⟩ | ⟨rfl, heq⟩ | heq <;> rw [heq]
  · exact Memory.wf_setSymbolLength h _
  · exact Memory.wf_setBitLength h _
  · exact Memory.wf_writeCount h (of_decide_eq_true hok) _
  · exact Memory.wf_removeCount h i
  · exact Memory.wf_writeSymbol h (of_decide_eq_true hok) _
  · exact Memory.wf_writeDigit h (of_decide_eq_true hok) _
  · exact h

/-- A command empties its destination, or writes there a result that fits the space: BUILD at most NODE_MAX
nodes, GEN entries at symbols, ENC and DEC what passed their check of the capacity (R51, R54). -/
theorem Memory.wf_exec (h : Memory.wf s) {i : Instr} (he : exec i s = .next t) : Memory.wf t := by
  have hsession : Memory.wf s.dropCodes.dropTree := Memory.wf_dropTree (Memory.wf_dropCodes h)
  cases i with
  | build =>
    rw [exec_build] at he
    rcases execBuild_cases s with ⟨-, heq⟩ | ⟨-, -, heq⟩ | ⟨-, -, heq⟩ <;> rw [heq] at he <;> cases he
    · exact hsession
    · exact hsession
    · exact Memory.wf_putTree (Memory.wf_dropCodes h)
        (treeNodes_length_le (presentEntries_length_le s.ft))
  | gen =>
    rcases execGen_next he with ⟨-, rfl⟩ | ⟨-, codes, -, rfl⟩ | ⟨-, _, -, rfl⟩
    · exact Memory.wf_endWith (Memory.wf_dropCodes h) _
    · exact Memory.wf_putCodes h (codeTable_wf codes)
    · exact Memory.wf_endWith (Memory.wf_dropCodes h) _
  | enc =>
    rcases execEnc_next he with ⟨-, rfl⟩ | ⟨-, _, -, rfl⟩ | ⟨-, _, -, -, rfl⟩ | ⟨-, _, -, hout, rfl⟩
    · exact Memory.wf_endWith (Memory.wf_dropBits h) _
    · exact Memory.wf_endWith (Memory.wf_dropBits h) _
    · exact Memory.wf_endWith (Memory.wf_dropBits h) _
    · exact Memory.wf_putBits h hout
  | dec =>
    rcases execDec_next he with ⟨-, rfl⟩ | ⟨-, _, -, rfl⟩ | ⟨-, _, -, -, rfl⟩ | ⟨-, _, -, hout, rfl⟩
    · exact Memory.wf_endWith (Memory.wf_dropOutput h) _
    · exact Memory.wf_endWith (Memory.wf_dropOutput h) _
    · exact Memory.wf_endWith (Memory.wf_dropOutput h) _
    · exact Memory.wf_putOutput h hout
  | endSession =>
    cases he
    exact hsession

/-- Settles O18: accepted writes and commands keep the canonical form, reset empties the stores, and no
other part of a step touches them. -/
theorem stepKeepsStoresCanonical : Obligations.StepKeepsStoresCanonical := fun _ _ hs h =>
  step_keeps (P := Memory.wf) (fun _ l hu => Memory.wf_pending hu l) (fun _ _ => Memory.wf_applyReset)
    (fun _ resp hu => Memory.wf_respond hu resp) (fun _ hu => Memory.wf_endWith hu _)
    (fun _ _ _ _ hok hu => Memory.wf_writeEntry hu hok) (fun _ _ _ he hu => Memory.wf_exec hu he) hs h

end Sys2Proof.Machine
end

section
/-! Read after write at the host port: the accepted transactions as steps, the words the port shows as
numbers, and the word shown by an entry just written. -/

namespace Sys2Proof.Machine

variable {s : State} {sp : Space} {index : BitVec 32} {w : Nat} {rest : List HostEvent}

/-! ## Accepted transactions (R142, R143) -/

@[simp] theorem Space.ofNumber_number (sp : Space) : Space.ofNumber sp.number = some sp := by
  cases sp <;> rfl

/-- The host may read whatever it may write (R142, R143). -/
theorem readable_of_writable {p : Params} {i : Nat} (h : writable p sp i w = true) :
    readable p sp i = true := by
  cases sp with
  | csr =>
    have hi : i = 4 ∨ i = 5 := by
      simp only [writable, Bool.or_eq_true, Bool.and_eq_true, beq_iff_eq] at h
      exact h.imp And.left And.left
    rcases hi with rfl | rfl <;> rfl
  | ft | si | bs => simp [readable, of_decide_eq_true h]
  | tm | ct | so => cases h

theorem hostRead_readable {i : Nat} (hok : readable s.params sp i = true) :
    hostRead s (some sp) i = s.respond { err := false, rdata := s.entryWord sp i } :=
  if_pos hok

theorem hostWrite_writable {i : Nat} (hw : w < 2 ^ sp.entryWidth s.params)
    (hok : writable s.params sp i w = true) :
    hostWrite s (some sp) i w = (s.writeEntry sp i w).respond writtenResponse := by
  simp only [hostWrite, Nat.mod_eq_of_lt hw]
  exact if_pos hok

/-- An accepted read is answered with the entry's word (R142). -/
theorem step_read (hp : s.pending = .transaction (Request.read sp index) :: rest)
    (hok : readable s.params sp index.toNat = true) :
    step s = .next (State.respond { s with pending := rest }
      { err := false, rdata := s.entryWord sp index.toNat }) := by
  rw [step_transaction hp, hostTransaction_read rfl, Request.read, Space.ofNumber_number]
  exact congrArg Host.Outcome.next (hostRead_readable hok)

/-- An accepted write of a whole entry word writes the entry and is answered (R143). -/
theorem step_write (hp : s.pending = .transaction (Request.write sp index w) :: rest)
    (hw : w < 2 ^ sp.entryWidth s.params) (hok : writable s.params sp index.toNat w = true) :
    step s = .next ((State.writeEntry { s with pending := rest } sp index.toNat w).respond
      writtenResponse) := by
  rw [step_transaction hp]
  rcases hostTransaction_write (s := { s with pending := rest }) (r := Request.write sp index w) rfl with
    ⟨hsp, hi, -⟩ | ⟨-, heq⟩
  · obtain rfl : sp = .csr := Option.some.inj ((Space.ofNumber_number sp).symm.trans hsp)
    have hcmd : writable s.params .csr 7 w = true := hi ▸ hok
    cases hcmd
  · rw [heq, Request.write, Space.ofNumber_number]
    exact congrArg Host.Outcome.next (hostWrite_writable hw hok)

@[simp] theorem State.writeEntry_pending (s : State) (sp : Space) (i w : Nat) :
    (s.writeEntry sp i w).pending = s.pending := by
  rw [writeEntry_frame]

@[simp] theorem State.entryWord_respond (s : State) (r : Response) (sp : Space) (i : Nat) :
    (s.respond r).entryWord sp i = s.entryWord sp i := rfl

/-! ## The words of the host's entries as numbers (R76, R78, R81) -/

@[simp] theorem wordValue_registerWord (width v : Nat) :
    wordValue (registerWord width (some v)) = some v := by
  simp [registerWord, Field.holding, wordValue]

theorem wordValue_ft {i count : Nat} (h : s.ft.read i = some count) :
    wordValue (s.entryWord .ft i) = some (2 ^ s.params.weightWidth + count) := by
  simp [State.entryWord, State.ftWord, h, Field.holding, wordValue]

theorem wordValue_si (s : State) (i : Nat) :
    wordValue (s.entryWord .si i) = (s.si.read i).map (·.toNat) := by
  cases h : s.si.read i <;> simp [State.entryWord, h, wordValue]

theorem wordValue_bs (s : State) (i : Nat) :
    wordValue (s.entryWord .bs i) = (s.bs.read i).map (·.toNat) := by
  cases h : s.bs.read i <;> simp [State.entryWord, h, wordValue]

/-! ## The word of an entry just written -/

/-- A number that fits its register is stored as it is. -/
theorem toNat_ofNat_eq {width : Nat} (hw : w < 2 ^ width) : (BitVec.ofNat width w).toNat = w := by
  rw [BitVec.toNat_ofNat, Nat.mod_eq_of_lt hw]

theorem wordValue_writeEntry_siLen (s : State) (hw : w < 2 ^ 32) :
    wordValue ((s.writeEntry .csr 4 w).entryWord .csr 4) = some w :=
  (wordValue_registerWord 32 _).trans (congrArg some (toNat_ofNat_eq hw))

theorem wordValue_writeEntry_bsLen (s : State) (hw : w < 2 ^ 32) :
    wordValue ((s.writeEntry .csr 5 w).entryWord .csr 5) = some w :=
  (wordValue_registerWord 32 _).trans (congrArg some (toNat_ofNat_eq hw))

/-- A word with `present` = 1 is 2^W_W and its count (R78). -/
theorem wordValue_writeEntry_ft (s : State) (i : Nat) (hlow : 2 ^ s.params.weightWidth ≤ w)
    (hw : w < 2 ^ (s.params.weightWidth + 1)) :
    wordValue ((s.writeEntry .ft i w).entryWord .ft i) = some w := by
  have hpresent : w.testBit s.params.weightWidth = true :=
    Nat.testBit_of_two_pow_le_and_two_pow_add_one_gt hlow hw
  have hcount : 2 ^ s.params.weightWidth + w % 2 ^ s.params.weightWidth = w := by
    rw [Nat.mod_eq_sub_mod hlow, Nat.mod_eq_of_lt (by omega)]
    omega
  have heq : s.writeEntry .ft i w = s.writeCount i (w % 2 ^ s.params.weightWidth) := by
    simp [State.writeEntry, hpresent]
  rw [heq, wordValue_ft (Store.read_write_same s.ft i _)]
  exact congrArg some hcount

theorem wordValue_writeEntry_si (s : State) (i : Nat) (hw : w < 2 ^ 8) :
    wordValue ((s.writeEntry .si i w).entryWord .si i) = some w := by
  simp only [wordValue_si, State.writeEntry, State.writeSymbol_si, Store.read_write_same, Option.map_some,
    toNat_ofNat_eq hw]

theorem wordValue_writeEntry_bs (s : State) (i : Nat) (hw : w < 2 ^ 1) :
    wordValue ((s.writeEntry .bs i w).entryWord .bs i) = some w := by
  have hdigit : (w.testBit 0).toNat = w := by
    rw [Nat.toNat_testBit]
    omega
  simp only [wordValue_bs, State.writeEntry, State.writeDigit_bs, Store.read_write_same, Option.map_some,
    hdigit]

/-- An accepted write and a read of the same entry are two steps that answer the entry's word. -/
theorem write_then_read_answers
    (hp : s.pending =
      .transaction (Request.write sp index w) :: .transaction (Request.read sp index) :: rest)
    (hw : w < 2 ^ sp.entryWidth s.params) (hok : writable s.params sp index.toNat w = true)
    (hword : ∀ u : State, u.params = s.params →
      wordValue ((u.writeEntry sp index.toNat w).entryWord sp index.toNat) = some w) :
    ∃ t u answer, step s = .next t ∧ step t = .next u ∧ u.response = some answer ∧
      answer.err = false ∧ wordValue answer.rdata = some w := by
  refine ⟨_, _, _, step_write hp hw hok, step_read (sp := sp) (index := index) (rest := rest) ?_ ?_,
    rfl, rfl, ?_⟩
  · rw [State.respond_pending, State.writeEntry_pending]
  · rw [State.respond_params, State.writeEntry_params]
    exact readable_of_writable hok
  · rw [State.entryWord_respond]
    exact hword _ rfl

/-- Settles O10: in each of its five cases the write is accepted, and the entry then shows the word. -/
theorem readAfterWriteGivesTheWord : Obligations.ReadAfterWriteGivesTheWord := by
  intro s sp index w rest hp hw hcase
  rcases hcase with ⟨rfl, hi, hle⟩ | ⟨rfl, hi, hle⟩ | ⟨rfl, hi, hlow⟩ | ⟨rfl, hi⟩ | ⟨rfl, hi⟩
  · exact write_then_read_answers hp hw (by simp [writable, hi, hle])
      fun u _ => hi ▸ wordValue_writeEntry_siLen u hw
  · exact write_then_read_answers hp hw (by simp [writable, hi, hle])
      fun u _ => hi ▸ wordValue_writeEntry_bsLen u hw
  · exact write_then_read_answers hp hw (decide_eq_true hi)
      fun u hu => wordValue_writeEntry_ft u _ (hu ▸ hlow) (hu ▸ hw)
  · exact write_then_read_answers hp hw (decide_eq_true hi)
      fun u _ => wordValue_writeEntry_si u _ hw
  · exact write_then_read_answers hp hw (decide_eq_true hi)
      fun u _ => wordValue_writeEntry_bs u _ hw

end Sys2Proof.Machine
end

section
/-! The command words, FLAGS and the entry words: decoding against the opcode map of R71, and the number each
register and entry shows the host, field by field. -/

namespace Sys2Proof.Machine

/-! ## Command words (R70 to R72) -/

/-- Every row of the opcode map compares all 32 bits with its command's word (R71). -/
theorem opcodeTable_rows :
    ∀ r ∈ opcodeTable, r.mask = BitVec.allOnes 32 ∧ r.pattern = encode r.instr := by
  decide

theorem OpcodeRow.eq_encode_of_matchesWord {r : OpcodeRow} {w : CommandWord} (hr : r ∈ opcodeTable)
    (h : r.matchesWord w = true) : w = encode r.instr := by
  obtain ⟨hmask, hpattern⟩ := opcodeTable_rows r hr
  rw [OpcodeRow.matchesWord, hmask, hpattern, BitVec.and_allOnes] at h
  exact eq_of_beq h

/-- Settles O2, by the command's own lemma of Laws/PerInstr. -/
theorem decodeInvertsEncode : Obligations.DecodeInvertsEncode := by
  intro i
  cases i with
  | build => exact Laws.DecodesBack.build
  | gen => exact Laws.DecodesBack.gen
  | enc => exact Laws.DecodesBack.enc
  | dec => exact Laws.DecodesBack.dec
  | endSession => exact Laws.DecodesBack.endSession

theorem decode_encode (i : Instr) : decode (encode i) = .ok i :=
  (decodeInvertsEncode i).2

/-- The decoder answers with a command exactly on that command's word. -/
theorem decode_eq_ok_iff {w : CommandWord} {i : Instr} : decode w = .ok i ↔ w = encode i := by
  refine ⟨fun h => ?_, fun h => h ▸ decode_encode i⟩
  unfold decode at h
  split at h
  next r hfind =>
    cases h
    exact OpcodeRow.eq_encode_of_matchesWord (List.mem_of_find?_eq_some hfind)
      (List.find?_some (p := (OpcodeRow.matchesWord · w)) hfind)
  next => cases h

/-- Settles O3: the decoder inverts the encoder (`decode_eq_ok_iff`), and the words are the encoder's. -/
theorem onlyFiveWordsDecode : Obligations.OnlyFiveWordsDecode := by
  intro w i
  rw [decode_eq_ok_iff]
  cases i <;> exact Iff.rfl

/-- Settles O1: the five words are the encoder's, and the decoder runs on the three words beside them. -/
theorem commandWordsDecode : Obligations.CommandWordsDecode :=
  ⟨decode_encode .build, decode_encode .gen, decode_encode .enc, decode_encode .dec,
    decode_encode .endSession, by decide, by decide, by decide⟩

/-! ## FLAGS (R75) -/

theorem State.flagsWord_toNat (s : State) :
    s.flagsWord.toNat = s.treeValid.toNat + 2 * s.ctValid.toNat := by
  cases ht : s.treeValid <;> cases hc : s.ctValid <;> simp [State.flagsWord, ht, hc]

theorem State.flagsWord_getLsbD (s : State) (b : Nat) :
    s.flagsWord.getLsbD b = (s.treeValid.toNat + 2 * s.ctValid.toNat).testBit b := by
  rw [← s.flagsWord_toNat, BitVec.testBit_toNat]

/-- Settles O11: each bit is read off the number FLAGS is, which is below 2^2. -/
theorem flagsWordLayout : Obligations.FlagsWordLayout := by
  intro s
  simp only [s.flagsWord_getLsbD]
  refine ⟨?number, ?bit0, ?bit1, fun b hb => ?above⟩
  case number => exact (wordValue_registerWord 32 _).trans (congrArg some s.flagsWord_toNat)
  case bit0 => cases s.treeValid <;> cases s.ctValid <;> rfl
  case bit1 => cases s.treeValid <;> cases s.ctValid <;> rfl
  case above =>
    have ht := s.treeValid.toNat_le
    have hc := s.ctValid.toNat_le
    have hpow : 2 ^ 2 ≤ 2 ^ b := Nat.pow_le_pow_right (by decide) hb
    exact Nat.testBit_lt_two_pow (by omega)

/-! ## Entry words (R76 to R81) -/

/-- A register that may hold no value shows its value as the word's number, or no word (R23, R76). -/
theorem wordValue_registerWord_ite (width v : Nat) (c : Bool) :
    wordValue (registerWord width (if c = true then some v else none)) =
      if c = true then some v else none := by
  cases c
  · rfl
  · exact wordValue_registerWord width v

variable {s : State} {i : Nat}

theorem entryWord_ft_absent (h : s.ft.read i = none) :
    s.entryWord .ft i = [⟨1, some 0⟩, ⟨s.params.weightWidth, none⟩] := by
  simp [State.entryWord, State.ftWord, h, Field.holding]

/-- The fields of a TM entry stand above the weight's W_W bits at 26, 18, 9 and 0 (R79). -/
theorem wordValue_tm {node : TreeNode} (h : s.tm.read i = some node) :
    wordValue (s.entryWord .tm i) = some
      (node.kind.bit * 2 ^ (s.params.weightWidth + 26) + node.sym.toNat * 2 ^ (s.params.weightWidth + 18) +
        node.left.toNat * 2 ^ (s.params.weightWidth + 9) + node.right.toNat * 2 ^ s.params.weightWidth +
        node.weight) := by
  simp only [State.entryWord, State.tmWord, h, Option.map_some, wordValue, List.foldl, pow_add]
  congr 1
  ring

theorem wordValue_tm_none (h : s.tm.read i = none) : wordValue (s.entryWord .tm i) = none := by
  simp [State.entryWord, State.tmWord, h, wordValue]

/-- A valid CT entry shows its bit `valid` at 263 and `len` at 255, above the code (R80). -/
theorem wordValue_ct {entry : CodeEntry} (hv : s.ctValid = true) (h : s.ct.read i = some entry) :
    wordValue (s.entryWord .ct i) = some (2 ^ 263 + entry.len.toNat * 2 ^ 255 + entry.code.toNat) := by
  rw [show 263 = 8 + 255 from rfl, pow_add]
  simp only [State.entryWord, State.ctWord, hv, h, if_true, Option.map_some, Option.isSome_some,
    Field.holding, wordValue, List.foldl, Bool.toNat_true]
  generalize 2 ^ 255 = place
  congr 1
  ring

theorem entryWord_ct_invalid (hv : s.ctValid = true) (h : s.ct.read i = none) :
    (s.entryWord .ct i).head? = some ⟨1, some 0⟩ := by
  simp [State.entryWord, State.ctWord, hv, h, Field.holding]

theorem wordValue_ct_none (hv : s.ctValid = false) : wordValue (s.entryWord .ct i) = none := by
  simp [State.entryWord, State.ctWord, hv, wordValue]

theorem wordValue_so (s : State) (i : Nat) :
    wordValue (s.entryWord .so i) = (s.so.read i).map (·.toNat) := by
  cases h : s.so.read i <;> simp [State.entryWord, h, wordValue]

/-- Settles O12, register by register and store by store. -/
theorem entryWordLayouts : Obligations.EntryWordLayouts := by
  refine ⟨fun e => by cases e <;> rfl, fun s => ⟨wordValue_registerWord 3 _,
    wordValue_registerWord_ite 9 _ s.treeValid, wordValue_registerWord_ite 9 _ s.treeValid,
    wordValue_registerWord 32 _, wordValue_registerWord 32 _, wordValue_registerWord 32 _,
    fun i => ⟨fun _ => wordValue_ft, entryWord_ft_absent, ?tm, wordValue_tm_none, fun _ => wordValue_ct,
      entryWord_ct_invalid, wordValue_ct_none, wordValue_si s i, ?bs, wordValue_so s i⟩⟩⟩
  case tm =>
    rintro ⟨kind, sym, weight, left, right⟩ h
    rw [wordValue_tm h]
    cases kind <;> rfl
  case bs =>
    rw [wordValue_bs]
    exact congrArg (Option.map · _) (funext fun d => by cases d <;> rfl)

end Sys2Proof.Machine
end

section
/-! The loads of a script: LDFT, LDSI and LDBS are writes of a space from an index upward, and what they leave
is read off one entry at a time (30_encoding R83, R84). -/

namespace Sys2Proof.Machine

variable {s t : State} {sp : Space} {i j k w : Nat} {ws : List Nat} {rest : List HostEvent}

/-! ## Writes of a space from an index upward -/

/-- The state after accepted writes of a list of entry words to a space from index i upward, each answered. -/
def State.writeFrom (sp : Space) : State → Nat → List Nat → State
  | s, _, [] => s
  | s, i, w :: ws => State.writeFrom sp ((s.writeEntry sp i w).respond writtenResponse) (i + 1) ws

/-- What every accepted write of the space keeps, the writes keep. -/
theorem writeFrom_keeps {P : State → Prop} (hs : P s)
    (hwrite : ∀ u j w, P u → P ((u.writeEntry sp j w).respond writtenResponse)) :
    P (s.writeFrom sp i ws) := by
  induction ws generalizing s i with
  | nil => exact hs
  | cons w ws ih => exact ih (hwrite s i w hs)

@[simp] theorem State.writeFrom_params (s : State) (sp : Space) (i : Nat) (ws : List Nat) :
    (s.writeFrom sp i ws).params = s.params :=
  writeFrom_keeps (P := fun u => u.params = s.params) rfl fun u j w hu =>
    (u.writeEntry_params sp j w).trans hu

theorem State.writeFrom_response (s : State) (sp : Space) (i : Nat) (hne : ws ≠ []) :
    (s.writeFrom sp i ws).response = some writtenResponse := by
  obtain ⟨w, ws, rfl⟩ := List.exists_cons_of_ne_nil hne
  exact writeFrom_keeps (s := (s.writeEntry sp i w).respond writtenResponse)
    (P := fun u => u.response = some writtenResponse) rfl fun _ _ _ _ => rfl

/-- An accepted write does not depend on the events still to come. -/
theorem State.writeEntry_withPending (s : State) (sp : Space) (i w : Nat) (l : List HostEvent) :
    State.writeEntry { s with pending := l } sp i w = { s.writeEntry sp i w with pending := l } := by
  cases sp with
  | csr | ft =>
    simp only [State.writeEntry]
    split_ifs <;> rfl
  | si | bs | tm | ct | so => rfl

theorem State.writeFrom_withPending (s : State) (sp : Space) (i : Nat) (ws : List Nat)
    (l : List HostEvent) :
    State.writeFrom sp { s with pending := l } i ws = { s.writeFrom sp i ws with pending := l } := by
  induction ws generalizing s i with
  | nil => rfl
  | cons w ws ih =>
    rw [State.writeFrom, s.writeEntry_withPending sp i w l]
    exact ih ((s.writeEntry sp i w).respond writtenResponse) (i + 1)

/-! ## Running the writes -/

@[simp] theorem State.withScript_params (s : State) (script : List Statement) :
    (s.withScript script).params = s.params := rfl

theorem run_succ_of_step (h : step s = .next t) (n : Nat) : core.run (n + 1) s = core.run n t := by
  have hcore : core.step s = .next t := h
  simp only [Host.Core.run, hcore]

/-- Pending writes of fitting words to writable entries run in one step each. -/
theorem run_writesFrom (hp : s.pending = (writesFrom sp i ws).map .transaction ++ rest)
    (hindex : i + ws.length ≤ 2 ^ 32) (hfit : ∀ w ∈ ws, w < 2 ^ sp.entryWidth s.params)
    (hok : ∀ j w, j < i + ws.length → writable s.params sp j w = true) (n : Nat) :
    core.run (ws.length + n) s = core.run n (State.writeFrom sp { s with pending := rest } i ws) := by
  induction ws generalizing s i with
  | nil =>
    have hs : s = { s with pending := rest } := by rw [← show s.pending = rest from hp]
    rw [List.length_nil, Nat.zero_add]
    exact congrArg (core.run n) hs
  | cons w ws ih =>
    rw [List.length_cons] at hindex hok ⊢
    have hi : (BitVec.ofNat 32 i).toNat = i := toNat_ofNat_eq (by omega)
    have hstep := step_write (sp := sp) (index := BitVec.ofNat 32 i) (w := w) hp
      (hfit w List.mem_cons_self) (hi.symm ▸ hok i w (by omega))
    rw [hi, State.writeEntry_withPending] at hstep
    rw [Nat.add_right_comm, run_succ_of_step hstep, ih rfl (by omega), State.writeFrom,
      s.writeEntry_withPending sp i w rest]
    · rfl
    · intro v hv
      rw [State.respond_params, State.writeEntry_params]
      exact hfit v (List.mem_cons_of_mem w hv)
    · intro j v hj
      rw [State.respond_params, State.writeEntry_params]
      exact hok j v (by omega)

/-- The writes of a sequence's words, and then of its length to a register: LDSI and LDBS (R84). -/
theorem run_load {α : Type} {l : List α} {word : α → Nat} {index : BitVec 32}
    (hp : s.pending = (writesFrom sp 0 (l.map word) ++ [Request.write .csr index l.length]).map .transaction)
    (hindex : l.length < 2 ^ 32) (hfit : ∀ a, word a < 2 ^ sp.entryWidth s.params)
    (hok : ∀ j w, j < l.length → writable s.params sp j w = true)
    (hlen : writable s.params .csr index.toNat l.length = true) :
    core.run (l.length + 1) s =
      .next (((State.writeFrom sp { s with pending := [] } 0 (l.map word)).writeEntry .csr index.toNat
        l.length).respond writtenResponse) := by
  have hwords : (l.map word).length = l.length := List.length_map _
  have hfits : ∀ w ∈ l.map word, w < 2 ^ sp.entryWidth s.params := by
    intro _ hw
    obtain ⟨a, -, rfl⟩ := List.mem_map.1 hw
    exact hfit a
  rw [List.map_append] at hp
  have hrun := run_writesFrom hp (by omega) hfits (fun j w hj => hok j w (by omega)) 1
  rw [hwords] at hrun
  rw [hrun, s.writeFrom_withPending, s.writeFrom_withPending (l := [])]
  refine run_succ_of_step (step_write (sp := .csr) (rest := []) rfl hindex ?_) 0
  rwa [State.writeFrom_params]

/-! ## Reading the entries written -/

/-- The entry words written to a space reach the store `get`, where they mean `value`. -/
structure WritesTo {α : Type} (sp : Space) (get : State → Store α) (value : Params → Nat → Option α) :
    Prop where
  respond : ∀ (s : State) r, get (s.respond r) = get s
  same : ∀ (s : State) i w, (get (s.writeEntry sp i w)).read i = value s.params w
  other : ∀ (s : State) i j w, j ≠ i → (get (s.writeEntry sp i w)).read j = (get s).read j

/-- The count an FT entry word gives its symbol: none while the bit `present` is 0 (R78). -/
def countOfWord (p : Params) (w : Nat) : Option Nat :=
  if w.testBit p.weightWidth then some (w % 2 ^ p.weightWidth) else none

theorem writesTo_ft : WritesTo .ft State.ft countOfWord where
  respond _ _ := rfl
  same s i w := by
    simp only [State.writeEntry, countOfWord]
    split_ifs
    · exact Store.read_write_same s.ft i _
    · exact Store.read_erase_same s.ft i
  other s i j w hj := by
    simp only [State.writeEntry]
    split_ifs
    · exact Store.read_write_other s.ft hj _
    · exact Store.read_erase_other s.ft hj

theorem writesTo_si : WritesTo .si State.si (fun _ w => some (BitVec.ofNat 8 w)) where
  respond _ _ := rfl
  same s i _ := Store.read_write_same s.si i _
  other s _ _ _ hj := Store.read_write_other s.si hj _

theorem writesTo_bs : WritesTo .bs State.bs (fun _ w => some (w.testBit 0)) where
  respond _ _ := rfl
  same s i _ := Store.read_write_same s.bs i _
  other s _ _ _ hj := Store.read_write_other s.bs hj _

section Reading

variable {α : Type} {get : State → Store α} {value : Params → Nat → Option α}

theorem WritesTo.read_outside (h : WritesTo sp get value) (hj : j < i ∨ i + ws.length ≤ j) :
    (get (s.writeFrom sp i ws)).read j = (get s).read j := by
  induction ws generalizing s i with
  | nil => rfl
  | cons w ws ih =>
    rw [List.length_cons] at hj
    rw [State.writeFrom, ih (by omega), h.respond, h.other s i j w (by omega)]

theorem WritesTo.read_inside (h : WritesTo sp get value) (hk : ws[k]? = some w) :
    (get (s.writeFrom sp i ws)).read (i + k) = value s.params w := by
  induction ws generalizing s i k with
  | nil => simp at hk
  | cons v ws ih =>
    cases k with
    | zero =>
      obtain rfl : v = w := by simpa using hk
      rw [State.writeFrom, h.read_outside (by omega), h.respond]
      exact h.same s i v
    | succ k =>
      rw [State.writeFrom, Nat.add_comm k 1, ← Nat.add_assoc, ih (by simpa using hk), State.respond_params,
        State.writeEntry_params]

/-- Entries written from 0 upward with the words of a sequence are the sequence. -/
theorem WritesTo.slots_writeFrom (h : WritesTo sp get value) {l : List α} {word : α → Nat}
    (hvalue : ∀ a, value s.params (word a) = some a) :
    (get (s.writeFrom sp 0 (l.map word))).slots l.length = l.map some := by
  refine List.ext_getElem? fun k => ?_
  rw [Store.slots_getElem?, List.getElem?_map]
  by_cases hk : k < l.length
  · have hword : (l.map word)[k]? = some (word l[k]) := by simp [hk]
    have hread := h.read_inside (s := s) (i := 0) hword
    rw [Nat.zero_add, hvalue] at hread
    rw [if_pos hk, hread, List.getElem?_eq_getElem hk, Option.map_some]
  · rw [if_neg hk, List.getElem?_eq_none (by omega), Option.map_none]

end Reading

/-! ## What the writes leave unchanged -/

theorem writeFrom_ft_frame (s : State) (i : Nat) (ws : List Nat) : s.writeFrom .ft i ws =
    { s with ft := (s.writeFrom .ft i ws).ft, response := (s.writeFrom .ft i ws).response } := by
  refine writeFrom_keeps (P := fun u => u = { s with ft := u.ft, response := u.response }) rfl
    fun u j w hu => ?_
  rw [hu]
  simp only [State.writeEntry]
  split_ifs <;> rfl

theorem writeFrom_si_frame (s : State) (i : Nat) (ws : List Nat) : s.writeFrom .si i ws =
    { s with si := (s.writeFrom .si i ws).si, response := (s.writeFrom .si i ws).response } := by
  refine writeFrom_keeps (P := fun u => u = { s with si := u.si, response := u.response }) rfl
    fun u j w hu => ?_
  rw [hu]
  rfl

theorem writeFrom_bs_frame (s : State) (i : Nat) (ws : List Nat) : s.writeFrom .bs i ws =
    { s with bs := (s.writeFrom .bs i ws).bs, response := (s.writeFrom .bs i ws).response } := by
  refine writeFrom_keeps (P := fun u => u = { s with bs := u.bs, response := u.response }) rfl
    fun u j w hu => ?_
  rw [hu]
  rfl

/-! ## LDFT -/

theorem ftEntryWord_lt {p : Params} {entry : Option Nat}
    (h : ∀ count ∈ entry, count < 2 ^ p.weightWidth) : ftEntryWord p entry < 2 ^ (p.weightWidth + 1) := by
  cases entry with
  | none => exact Nat.two_pow_pos _
  | some count =>
    have hcount := h count rfl
    rw [ftEntryWord, pow_succ]
    omega

theorem countOfWord_ftEntryWord {p : Params} {entry : Option Nat}
    (h : ∀ count ∈ entry, count < 2 ^ p.weightWidth) : countOfWord p (ftEntryWord p entry) = entry := by
  cases entry with
  | none => simp [countOfWord, ftEntryWord]
  | some count =>
    have hcount : count < 2 ^ p.weightWidth := h count rfl
    rw [countOfWord, ftEntryWord, Nat.testBit_two_pow_add_eq, Nat.testBit_lt_two_pow hcount,
      Nat.add_mod_left, Nat.mod_eq_of_lt hcount]
    rfl

/-- A count the table looks up is one of its counts, so below a bound of them all. -/
theorem lookup_lt {table : List (Symbol × Nat)} {bound : Nat} (h : ∀ e ∈ table, e.2 < bound)
    (sym : Symbol) : ∀ count ∈ table.lookup sym, count < bound := by
  intro count hcount
  obtain ⟨before, after, rfl, -⟩ := List.lookup_eq_some_iff.1 hcount
  exact h (sym, count) (by simp)

/-- The entry words LDFT writes, one for each symbol (R84). -/
def ftWords (p : Params) (table : List (Symbol × Nat)) : List Nat :=
  (List.range Config.symbolCount).map (fun n => ftEntryWord p (table.lookup (BitVec.ofNat 8 n)))

@[simp] theorem ftWords_length (p : Params) (table : List (Symbol × Nat)) :
    (ftWords p table).length = 256 := by
  simp [ftWords, Config.symbolCount]

theorem ftWords_getElem? (p : Params) (table : List (Symbol × Nat)) (sym : Symbol) :
    (ftWords p table)[sym.toNat]? = some (ftEntryWord p (table.lookup sym)) := by
  have hsym : sym.toNat < Config.symbolCount := sym.isLt
  simp [ftWords, hsym]

theorem ftWords_lt {p : Params} {table : List (Symbol × Nat)}
    (h : ∀ e ∈ table, e.2 < 2 ^ p.weightWidth) :
    ∀ w ∈ ftWords p table, w < 2 ^ Space.ft.entryWidth p := by
  intro w hw
  obtain ⟨n, -, rfl⟩ := List.mem_map.1 hw
  exact ftEntryWord_lt (lookup_lt h _)

theorem withScript_ldft_pending (s : State) (table : List (Symbol × Nat)) :
    (s.withScript [.ldft table]).pending =
      (writesFrom .ft 0 (ftWords s.params table)).map .transaction ++ [] := by
  simp [State.withScript, scriptEvents, Statement.expand, ftWords]

theorem run_ldft {table : List (Symbol × Nat)} (h : ∀ e ∈ table, e.2 < 2 ^ s.params.weightWidth) :
    core.run 256 (s.withScript [.ldft table]) =
      .next (State.writeFrom .ft { s with pending := [] } 0 (ftWords s.params table)) := by
  have hrun := run_writesFrom (withScript_ldft_pending s table) (by simp) (ftWords_lt h)
    (fun j _ hj => decide_eq_true (by rwa [Nat.zero_add, ftWords_length] at hj)) 0
  rwa [ftWords_length] at hrun

/-- Settles O58: the 256 writes run, and each symbol's entry then means what the table looks up. -/
theorem ldftLoadsExactlyTheTable : Obligations.LdftLoadsExactlyTheTable := by
  intro s table hcounts
  have hne : ftWords s.params table ≠ [] := List.ne_nil_of_length_pos (by simp)
  refine ⟨_, run_ldft hcounts, ?frame, fun sym => ?read⟩
  case frame =>
    refine (writeFrom_ft_frame _ 0 _).trans ?_
    rw [State.writeFrom_response _ _ _ hne]
    rfl
  case read =>
    have hread := writesTo_ft.read_inside (s := { s with pending := [] }) (i := 0)
      (ftWords_getElem? s.params table sym)
    rw [Nat.zero_add] at hread
    exact hread.trans (countOfWord_ftEntryWord (lookup_lt hcounts sym))

/-! ## LDSI and LDBS -/

theorem Params.capacities_lt {p : Params} (h : p.wellFormed = true) :
    p.symbolCapacity < 2 ^ 32 ∧ p.bitCapacity < 2 ^ 32 := by
  simp only [Params.wellFormed, Bool.and_eq_true, decide_eq_true_eq] at h
  obtain ⟨⟨-, -, hsymbols⟩, -, hbits⟩ := h
  exact ⟨hsymbols, hbits⟩

theorem withScript_ldsi_pending (s : State) (symbols : List Symbol) :
    (s.withScript [.ldsi symbols]).pending =
      (writesFrom .si 0 (symbols.map (·.toNat)) ++
        [Request.write .csr Csr.siLen.number symbols.length]).map .transaction := by
  simp [State.withScript, scriptEvents, Statement.expand]

theorem run_ldsi {symbols : List Symbol} (hp : s.params.wellFormed = true)
    (h : symbols.length ≤ s.params.symbolCapacity) :
    core.run (symbols.length + 1) (s.withScript [.ldsi symbols]) =
      .next (((State.writeFrom .si { s with pending := [] } 0 (symbols.map (·.toNat))).setSymbolLength
        (BitVec.ofNat 32 symbols.length)).respond writtenResponse) := by
  have hcap : s.params.symbolCapacity < 2 ^ 32 := (Params.capacities_lt hp).1
  refine run_load (withScript_ldsi_pending s symbols) (by omega) (fun sym => sym.isLt) (fun j w hj => ?_) ?_
  · exact decide_eq_true (show j < s.params.symbolCapacity by omega)
  · simp [writable, Csr.number, h]

theorem withScript_ldbs_pending (s : State) (digits : List Digit) :
    (s.withScript [.ldbs digits]).pending =
      (writesFrom .bs 0 (digits.map (·.toNat)) ++
        [Request.write .csr Csr.bsLen.number digits.length]).map .transaction := by
  simp [State.withScript, scriptEvents, Statement.expand]

theorem run_ldbs {digits : List Digit} (hp : s.params.wellFormed = true)
    (h : digits.length ≤ s.params.bitCapacity) :
    core.run (digits.length + 1) (s.withScript [.ldbs digits]) =
      .next (((State.writeFrom .bs { s with pending := [] } 0 (digits.map (·.toNat))).setBitLength
        (BitVec.ofNat 32 digits.length)).respond writtenResponse) := by
  have hcap : s.params.bitCapacity < 2 ^ 32 := (Params.capacities_lt hp).2
  refine run_load (withScript_ldbs_pending s digits) (by omega) Bool.toNat_lt (fun j w hj => ?_) ?_
  · exact decide_eq_true (show j < s.params.bitCapacity by omega)
  · simp [writable, Csr.number, h]

/-- Settles O59: the writes run, the first entries are then the sequence and its length the register's, and
the entries above are those no write reached. -/
theorem loadsGiveTheSequence : Obligations.LoadsGiveTheSequence := by
  intro s symbols digits hp
  obtain ⟨hsymbolCap, hbitCap⟩ := Params.capacities_lt hp
  refine ⟨fun h => ?symbols, fun h => ?digits⟩
  case symbols =>
    have hlen : (BitVec.ofNat 32 symbols.length).toNat = symbols.length := toNat_ofNat_eq (by omega)
    refine ⟨_, run_ldsi hp h, ?holds, hlen, fun i hi => ?above, ?frame⟩
    case holds =>
      simp only [HoldsSymbols, State.symbolSlots, State.respond_si, State.respond_siLen,
        State.setSymbolLength_si, State.setSymbolLength_siLen, hlen]
      exact writesTo_si.slots_writeFrom fun sym => by simp
    case above => exact writesTo_si.read_outside (.inr (by simpa using hi))
    case frame =>
      rw [writeFrom_si_frame]
      rfl
  case digits =>
    have hlen : (BitVec.ofNat 32 digits.length).toNat = digits.length := toNat_ofNat_eq (by omega)
    refine ⟨_, run_ldbs hp h, ?holds, hlen, fun i hi => ?above, ?frame⟩
    case holds =>
      simp only [HoldsDigits, State.bitSlots, State.respond_bs, State.respond_bsLen,
        State.setBitLength_bs, State.setBitLength_bsLen, hlen]
      exact writesTo_bs.slots_writeFrom fun digit => by cases digit <;> rfl
    case above => exact writesTo_bs.read_outside (.inr (by simpa using hi))
    case frame =>
      rw [writeFrom_bs_frame]
      rfl

end Sys2Proof.Machine
end

section
/-! BUILD's answers (R96 to R98, R101), the shape of its tree with the depth of the leaves (R100), and the
leaves in the order of the symbol (R91, R95). -/

namespace Sys2Proof.Machine

variable {s t : State}

/-! ## How BUILD answers -/

/-- A BUILD that ends with status 0 found entries whose total fits, and put their tree (R98). -/
theorem execBuild_ok (h : exec .build s = .next t) (hok : t.status = .ok) :
    presentEntries s.ft ≠ [] ∧ totalCount (presentEntries s.ft) ≤ 2 ^ s.params.weightWidth - 1 ∧
      t = (s.dropCodes.putTree (treeNodes (presentEntries s.ft))).endWith .ok := by
  rw [exec_build] at h
  rcases execBuild_cases s with ⟨-, heq⟩ | ⟨-, -, heq⟩ | ⟨hne, htotal, heq⟩ <;> rw [heq] at h <;> cases h
  · cases hok
  · cases hok
  · exact ⟨hne, htotal, rfl⟩

/-- On a table that is not empty and whose total fits, BUILD puts the entries' tree (R98). -/
theorem execBuild_of_fits (hne : presentEntries s.ft ≠ [])
    (htotal : totalCount (presentEntries s.ft) ≤ 2 ^ s.params.weightWidth - 1) :
    exec .build s = .next ((s.dropCodes.putTree (treeNodes (presentEntries s.ft))).endWith .ok) := by
  rcases execBuild_cases s with ⟨h0, -⟩ | ⟨-, hgt, -⟩ | ⟨-, -, heq⟩
  · exact absurd h0 hne
  · omega
  · exact heq

/-- From any state a successful BUILD gives a tree of the shape of R30 (b), one leaf per present entry. -/
theorem execBuild_shape (h : exec .build s = .next t) (hok : t.status = .ok) :
    TreeShape t.params t.tm t.root t.nnodes ∧ leafCount t.tm = (presentEntries s.ft).length := by
  obtain ⟨hne, htotal, rfl⟩ := execBuild_ok h hok
  have hle := presentEntries_length_le s.ft
  exact ⟨treeNodes_shape hne hle (presentEntries_sorted s.ft) htotal, leafCount_treeNodes hne hle⟩

/-! ## The depth of the leaves (R100 (d)) -/

/-- In a tree of N leaves the walk below node n ends within n + 1 − N digits, since children stand before
their parent and leaves before all internal nodes. -/
theorem TreeShape.walk_isOk {p : Params} {tm : Store TreeNode} {root nnodes : BitVec 9}
    (h : TreeShape p tm root nnodes) {fuel : Nat} {n : NodeIndex} (path : List Digit)
    (hn : n.toNat < nnodes.toNat) (hf : n.toNat + 1 - leafCount tm < fuel) :
    ∃ codes, walk tm fuel n path = .ok codes := by
  induction fuel generalizing n path with
  | zero => omega
  | succ fuel ih =>
    obtain ⟨node, hnode⟩ := Option.isSome_iff_exists.1 ((h.entries _).2 hn)
    rcases h.node_cases hnode with ⟨-, hkind, -⟩ | ⟨hle, hkind, hchild⟩
    · exact ⟨[(node.sym, path)], by simp [walk, hnode, hkind]⟩
    · have hwalk : ∀ d, ∃ codes,
          (if node.child d = NIL then .ok [] else walk tm fuel (node.child d) (path ++ [d])) =
            Except.ok codes := fun d => by
        split_ifs with hd
        · exact ⟨[], rfl⟩
        · have hlt := hchild d hd
          exact ih _ (by omega) (by omega)
      obtain ⟨l, hl⟩ := hwalk false
      obtain ⟨r, hr⟩ := hwalk true
      rw [TreeNode.child_false] at hl
      rw [TreeNode.child_true] at hr
      exact ⟨l ++ r, by simp only [walk, hnode, hkind, hl, hr]⟩

/-- The tree that TM holds, of N leaves, has its leaves at depths from 1 to max(1, N − 1). -/
theorem TreeShape.exists_treeOf {p : Params} {tm : Store TreeNode} {root nnodes : BitVec 9}
    (h : TreeShape p tm root nnodes) : ∃ T, treeOf tm root = some T ∧
      ∀ c ∈ generateCodes T, 1 ≤ c.2.length ∧ c.2.length ≤ max 1 (leafCount tm - 1) := by
  have hroot := h.rootLast
  have hnodes := h.nodeCount
  have hbound : leafCount tm ≤ 256 := h.leafBound.2
  have hdepth : root.toNat + 1 - leafCount tm = max 1 (leafCount tm - 1) := by
    have := h.leafBound.1
    split_ifs at hnodes <;> omega
  obtain ⟨codes, hw⟩ := h.walk_isOk (fuel := max 1 (leafCount tm - 1) + 1) (n := root) []
    (by omega) (by omega)
  obtain ⟨T, hT, rfl⟩ := walk_paths h.root_ne_nil hw
  have hfuel : max 1 (leafCount tm - 1) + 1 + 1 ≤ Config.nodeCapacity + 1 := by
    simp only [Config.nodeCapacity]
    omega
  refine ⟨T, treeOfWithin_mono hT hfuel, fun c hc => ⟨?_, ?_⟩⟩
  · exact List.length_pos_iff.2 (h.walk_path_ne_nil hw hc)
  · have hlt := (walk_reaches .start hw hc).1
    rw [List.length_nil] at hlt
    omega

/-- Settles O32: the combine loop gives the shape (`treeNodes_shape`), and the shape bounds the walk from
the root (`TreeShape.walk_isOk`). -/
theorem buildGivesTreeShape : Obligations.BuildGivesTreeShape := by
  intro s t h hok
  obtain ⟨hshape, hcount⟩ := execBuild_shape h hok
  obtain ⟨T, hT, hdepth⟩ := hshape.exists_treeOf
  exact ⟨hshape, hcount, T, hT, hcount ▸ hdepth⟩

/-! ## Statuses and frame (R96, R97, R101) -/

theorem noTree_dropTree (s : State) : NoTree s.dropTree := ⟨rfl, fun _ => rfl, rfl, rfl⟩

theorem noCodes_of_dropped (hv : s.ctValid = false) (hct : s.ct = []) : NoCodes s :=
  ⟨hv, fun i => ⟨by rw [hct, Store.read_nil], wordValue_ct_none hv⟩⟩

/-- Settles O25: a total that does not fit is not the empty table's, so BUILD raises CapacityExceeded. -/
theorem buildRefusesTooLargeTotals : Obligations.BuildRefusesTooLargeTotals := by
  intro s hgt
  rcases execBuild_cases s with ⟨h0, -⟩ | ⟨-, -, heq⟩ | ⟨-, hle, -⟩
  · simp [h0, totalCount] at hgt
  · exact ⟨_, heq, rfl, noTree_dropTree _, noCodes_of_dropped rfl rfl, rfl⟩
  · omega

/-- Settles O34, in each of BUILD's three outcomes. -/
theorem buildFrame : Obligations.BuildFrame := by
  intro s t h
  rw [exec_build] at h
  rcases execBuild_cases s with ⟨-, heq⟩ | ⟨-, -, heq⟩ | ⟨-, -, heq⟩ <;> rw [heq] at h <;> cases h <;>
    exact ⟨rfl, fun _ => ⟨rfl, rfl, rfl, rfl⟩⟩

/-! ## The present entries by rank (R91) -/

theorem presentEntries_length (ft : Store Nat) :
    (presentEntries ft).length = (List.range 256).countP (fun i => (ft.read i).isSome) := by
  simp [presentEntries, List.length_filterMap_eq_countP, Config.symbolCount]

/-- The entry of a present symbol stands at the index that counts the present symbols below it. -/
theorem presentEntries_getElem?_rank {ft : Store Nat} {sym : Symbol} {count : Nat}
    (h : ft.read sym.toNat = some count) :
    (presentEntries ft)[(List.range sym.toNat).countP (fun i => (ft.read i).isSome)]? =
      some (sym, count) := by
  have hlt := sym.isLt
  have hsplit : Config.symbolCount = sym.toNat + (255 - sym.toNat + 1) := by
    simp only [Config.symbolCount]
    omega
  rw [presentEntries, hsplit, List.range_add, List.filterMap_append, List.getElem?_append_right] <;>
    simp [List.length_filterMap_eq_countP, List.range_succ_eq_map, h]

/-- Settles O27: the leaf of entry i is node i, and a symbol's entry stands at its rank. -/
theorem buildMakesLeavesInSymbolOrder : Obligations.BuildMakesLeavesInSymbolOrder := by
  intro s t h hok sym count hread
  obtain ⟨-, -, rfl⟩ := execBuild_ok h hok
  rw [State.endWith_tm, State.putTree_tm, Store.read_ofList,
    treeNodes_getElem?_leaf (presentEntries_getElem?_rank hread)]
  rfl

/-- Settles O26: the tree put has the shape of R30 (b), which gives NNODES, ROOT and the entries. -/
theorem buildCompletes : Obligations.BuildCompletes := by
  intro s n hn hpos htotal
  rw [← presentEntries_length] at hn
  have heq := execBuild_of_fits (List.length_pos_iff.1 (hn ▸ hpos)) htotal
  obtain ⟨hshape, hcount⟩ := execBuild_shape heq rfl
  have hnodes := hshape.nodeCount
  rw [hcount, ← hn] at hnodes
  exact ⟨_, heq, rfl, rfl, noCodes_of_dropped rfl rfl, hnodes, hshape.rootLast, hshape.entries, rfl⟩

/-- A table in which one symbol is present has one entry. -/
theorem presentEntries_eq_singleton {ft : Store Nat} {sym : Symbol} {count : Nat}
    (h : ∀ i, i < 256 → ft.read i = if i = sym.toNat then some count else none) :
    presentEntries ft = [(sym, count)] := by
  have hnodup : (presentEntries ft).Nodup :=
    (presentEntries_sorted ft).imp (fun hlt heq => by rw [heq] at hlt; exact lt_irrefl _ hlt)
  refine List.perm_singleton.1 ((List.perm_ext_iff_of_nodup hnodup (List.nodup_singleton _)).2 ?_)
  rintro ⟨x, n⟩
  rw [mem_presentEntries, h _ x.isLt, List.mem_singleton, Prod.mk.injEq]
  simp only [BitVec.toNat_inj]
  split_ifs with hx <;> simp [hx, eq_comm]

/-- Settles O28: the two nodes are those of a table with one entry. -/
theorem buildOfOneEntry : Obligations.BuildOfOneEntry := by
  intro s sym count hft hcount
  have hentries := presentEntries_eq_singleton hft
  have heq := execBuild_of_fits (s := s) (by simp [hentries]) (by simpa [hentries, totalCount] using hcount)
  rw [hentries] at heq
  exact ⟨_, heq, rfl, rfl, rfl, rfl, rfl⟩

end Sys2Proof.Machine
end

section
/-! The extraction takes the first live node in the order (weight, index) (R92), so the combine loop puts
each node's children in that order (R93). -/

namespace Sys2Proof.Machine

/-! ## The extraction (R92) -/

theorem Live.before_iff {x y : Live} :
    x.before y = true ↔ x.weight < y.weight ∨ (x.weight = y.weight ∧ x.index < y.index) := by
  simp [Live.before]

theorem Live.before_trans {x y z : Live} (hxy : x.before y = true) (hyz : y.before z = true) :
    x.before z = true := by
  rw [Live.before_iff] at *
  omega

/-- Two live nodes of different indices are ordered. -/
theorem Live.before_of_not_before {x y : Live} (hne : x.index ≠ y.index) (h : ¬ x.before y = true) :
    y.before x = true := by
  rw [Live.before_iff] at *
  omega

/-- The node extracted comes before all that are left. -/
theorem extractMin_before {q rest : List Live} {m : Live}
    (hq : q.Pairwise (fun x y => x.index ≠ y.index)) (h : extractMin q = some (m, rest)) :
    ∀ x ∈ rest, m.before x = true := by
  induction q generalizing m rest with
  | nil => cases h
  | cons x xs ih =>
    obtain ⟨hx, hxs⟩ := List.pairwise_cons.1 hq
    rw [extractMin] at h
    split at h
    · cases h
      simp
    · rename_i m' others hmin
      have hperm := extractMin_perm hmin
      split_ifs at h with hbefore
      · cases h
        intro y hy
        rcases List.mem_cons.1 (hperm.mem_iff.1 hy) with rfl | hy
        · exact hbefore
        · exact Live.before_trans hbefore (ih hxs hmin y hy)
      · cases h
        intro y hy
        rcases List.mem_cons.1 hy with rfl | hy
        · exact Live.before_of_not_before (hx m (hperm.mem_iff.2 List.mem_cons_self)) hbefore
        · exact ih hxs hmin y hy

/-- Settles O29, by `extractMin_perm` and `extractMin_before`. -/
theorem extractMinTakesTheFirst : Obligations.ExtractMinTakesTheFirst := by
  intro q hne hq
  obtain ⟨m, rest, h⟩ := extractMin_isSome hne
  exact ⟨m, rest, h, extractMin_perm h, fun x hx => Live.before_iff.1 (extractMin_before hq h x hx)⟩

/-! ## The order of the children (R93) -/

section Order

variable {es : List (Symbol × Nat)} {ns : List TreeNode} {q : List Live} {x : Live}
  (hf : Forest es ns q) (hlen : ns.length ≤ 511)

include hf hlen

/-- A live node's index survives as a node index. -/
theorem Forest.toNat_index (hx : x ∈ q) : (BitVec.ofNat 9 x.index).toNat = x.index := by
  have := hf.index_lt hx
  exact toNat_ofNat_eq (by omega)

/-- The live nodes are different nodes (R93). -/
theorem Forest.pairwise_index_ne : q.Pairwise (fun x y => x.index ≠ y.index) := by
  have hnodup : (q.map (·.index)).Nodup := by
    refine List.nodup_iff_count_le_one.2 fun k => ?_
    by_cases hk : k ∈ q.map (·.index)
    · obtain ⟨x, hx, rfl⟩ := List.mem_map.1 hk
      have hlt := hf.index_lt hx
      have hnat := hf.toNat_index hlen hx
      have hnil : BitVec.ofNat 9 x.index ≠ NIL := fun heq => by
        rw [heq] at hnat
        simp at hnat
        omega
      have hcount := hf.parents _ hnil
      rw [hnat, if_pos hlt] at hcount
      omega
    · rw [List.count_eq_zero.2 hk]
      exact Nat.zero_le 1
  exact List.pairwise_map.1 hnodup

end Order

/-- Every internal node's left child comes before its right child in the order (weight, index). -/
def ChildrenInOrder (ns : List TreeNode) : Prop :=
  ∀ node ∈ ns, node.kind = .internal → ∃ a b, ns[node.left.toNat]? = some a ∧
    ns[node.right.toNat]? = some b ∧
    (a.weight < b.weight ∨ (a.weight = b.weight ∧ node.left.toNat < node.right.toNat))

theorem childrenInOrder_leafNodes (es : List (Symbol × Nat)) : ChildrenInOrder (leafNodes es) := by
  intro node hnode hkind
  obtain ⟨e, -, rfl⟩ := List.mem_map.1 hnode
  cases hkind

/-- A combine step takes the node that comes first as the left child. -/
theorem ChildrenInOrder.step {es : List (Symbol × Nat)} {ns : List TreeNode} {q q1 q2 : List Live}
    {a b : Live} (h : ChildrenInOrder ns) (hf : Forest es ns q) (hlen : ns.length ≤ 511)
    (ha : extractMin q = some (a, q1)) (hb : extractMin q1 = some (b, q2)) :
    ChildrenInOrder (ns ++ [a.parentNode b]) := by
  intro node hnode hkind
  rcases List.mem_append.1 hnode with hnode | hnode
  · obtain ⟨x, y, hx, hy, horder⟩ := h node hnode hkind
    exact ⟨x, y, getElem?_append_of_some _ hx, getElem?_append_of_some _ hy, horder⟩
  · obtain rfl := List.mem_singleton.1 hnode
    have hb1 : b ∈ q1 := (extractMin_perm hb).mem_iff.2 List.mem_cons_self
    have hqa : a ∈ q := (extractMin_perm ha).mem_iff.2 List.mem_cons_self
    have hqb : b ∈ q := (extractMin_perm ha).mem_iff.2 (List.mem_cons_of_mem _ hb1)
    obtain ⟨x, hx, hwx⟩ := hf.live a hqa
    obtain ⟨y, hy, hwy⟩ := hf.live b hqb
    have hbefore := Live.before_iff.1 (extractMin_before (hf.pairwise_index_ne hlen) ha b hb1)
    simp only [Live.parentNode, internalNode, hf.toNat_index hlen hqa, hf.toNat_index hlen hqb]
    exact ⟨x, y, getElem?_append_of_some _ hx, getElem?_append_of_some _ hy, by rwa [hwx, hwy]⟩

/-- The children of a tree of two or more leaves are in order. -/
theorem childrenInOrder_treeNodes {es : List (Symbol × Nat)} (h2 : 2 ≤ es.length)
    (hle : es.length ≤ Config.symbolCount) : ChildrenInOrder (treeNodes es) := by
  have hq : liveFrom 0 es ≠ [] := List.ne_nil_of_length_pos (by rw [liveFrom_length]; omega)
  obtain ⟨x, -, hx⟩ := combine_keeps (P := fun ns q => Forest es ns q ∧ ChildrenInOrder ns)
    (fun ns q a b q1 q2 ha hb ⟨hf, ho⟩ => by
      have hperm := (extractMin_perm ha).trans ((extractMin_perm hb).cons a)
      exact ⟨hf.step hle hperm, ho.step hf (hf.length_lt hle hperm).le ha hb⟩)
    hq (fuel := es.length) (by simp) ⟨Forest.init es, childrenInOrder_leafNodes es⟩
  rwa [leafNodes_length, ← treeNodes_many h2] at hx

/-- Settles O30: the shape gives an internal node's children and its weight, and the combine loop keeps
the children in order. -/
theorem buildOrdersChildren : Obligations.BuildOrdersChildren := by
  intro s t h hok h2 i node hread hkind
  obtain ⟨hshape, hcount⟩ := execBuild_shape h hok
  have hi : leafCount t.tm ≤ i := by
    rcases hshape.node_cases hread with ⟨-, hleaf, -⟩ | ⟨hle, -, -⟩
    · rw [hkind] at hleaf
      cases hleaf
    · exact hle
  obtain ⟨l, r, a, b, hnode, hl, hr, ha, hb⟩ := hshape.internals (by omega) i hi (hshape.read_lt hread)
  obtain rfl := Option.some.inj (hread.symm.trans hnode)
  obtain ⟨-, -, rfl⟩ := execBuild_ok h hok
  simp only [State.endWith_tm, State.putTree_tm, Store.read_ofList] at hread ha hb ⊢
  obtain ⟨x, y, hx, hy, horder⟩ := childrenInOrder_treeNodes h2 (presentEntries_length_le s.ft) _
    (List.mem_of_getElem? hread) hkind
  obtain rfl := Option.some.inj (ha.symm.trans hx)
  obtain rfl := Option.some.inj (hb.symm.trans hy)
  exact ⟨a, b, ha, hb, hl, hr, rfl, horder⟩

end Sys2Proof.Machine
end

section
/-! GEN's answers on a tree of the shape of R30 (b), the code table it leaves (R105, R108, R109), and its frame
(R111). -/

namespace Sys2Proof.Machine

variable {s t : State}

/-! ## What a code table holds (R24, R30 (c), R80) -/

/-- A table that matches the tree holds each symbol's path, digit for digit. -/
theorem CodesMatch.exists_codeIn (h : CodesMatch s) :
    ∃ T, treeOf s.tm s.root = some T ∧ ∀ sym, s.codeIn sym = codeOf T sym := by
  obtain ⟨T, hT, hcodes⟩ := h
  refine ⟨T, hT, fun sym => ?_⟩
  obtain ⟨hread, hlen⟩ := hcodes sym
  rw [State.codeIn, hread]
  cases hp : codeOf T sym with
  | none => rfl
  | some p => exact congrArg some (CodeEntry.digits_ofDigits (hlen p hp).2)

/-- In a table that matches the tree every entry, at whatever index, has digits 0 at and above len. -/
theorem CodesMatch.digit_above_len (h : CodesMatch s) (hwf : Store.wf Config.symbolCount s.ct) {i k : Nat}
    {entry : CodeEntry} (hread : s.ct.read i = some entry) (hk : entry.len.toNat ≤ k) :
    entry.code.getLsbD k = false := by
  obtain ⟨T, -, hcodes⟩ := h
  have hi : i < 2 ^ 8 := hwf.2 _ (Store.mem_of_read hread)
  obtain ⟨hsym, hlen⟩ := hcodes (BitVec.ofNat 8 i)
  rw [toNat_ofNat_eq hi, hread] at hsym
  obtain ⟨p, hp, rfl⟩ := Option.map_eq_some_iff.1 hsym.symm
  have hfit : p.length < 2 ^ 8 := Nat.lt_succ_of_le (hlen p hp).2
  exact CodeEntry.ofDigits_code_above (by rwa [CodeEntry.ofDigits, toNat_ofNat_eq hfit] at hk)

/-! ## GEN on a tree (R105, R109) -/

/-- The walk of a tree of N leaves ends within max(1, N − 1) digits, no more than CODE_MAX (R100 (d)). -/
theorem TreeShape.walk_root_isOk {p : Params} {tm : Store TreeNode} {root nnodes : BitVec 9}
    (h : TreeShape p tm root nnodes) : ∃ codes, walk tm (Config.codeCapacity + 1) root [] = .ok codes := by
  have hroot := h.rootLast
  have hnodes := h.nodeCount
  have hbound : 1 ≤ leafCount tm ∧ leafCount tm ≤ 256 := h.leafBound
  refine h.walk_isOk [] (by omega) ?_
  simp only [Config.codeCapacity]
  split_ifs at hnodes <;> omega

/-- GEN on a valid tree writes the table of the walk's codes, which is the tree's code table. -/
theorem execGen_of_shape (h : TreeShape s.params s.tm s.root s.nnodes) (ht : s.treeValid = true) :
    ∃ codes, exec .gen s = .next ((s.putCodes (codeTable codes)).endWith .ok) ∧
      CodesMatch ((s.putCodes (codeTable codes)).endWith .ok) := by
  obtain ⟨codes, hw⟩ := h.walk_root_isOk
  exact ⟨codes, by simp [execGen, generateTable, ht, hw], codesMatch_putCodes h hw⟩

/-- Settles O35: the shape bounds the walk, and the table it gives matches the tree. -/
theorem genGivesThePaths : Obligations.GenGivesThePaths := by
  intro s hs ht
  obtain ⟨codes, hgen, hmatch⟩ := execGen_of_shape (hs.tree ht) ht
  obtain ⟨T, hT, hcodes⟩ := hmatch.exists_codeIn
  exact ⟨_, T, hgen, hT, rfl, hcodes, fun _ _ _ => hmatch.digit_above_len (codeTable_wf codes)⟩

/-! ## The frame (R111) -/

/-- Settles O36, in each of GEN's outcomes. -/
theorem genFrame : Obligations.GenFrame := by
  intro s t h
  rw [exec_gen] at h
  rcases execGen_next h with ⟨-, rfl⟩ | ⟨-, _, -, rfl⟩ | ⟨-, _, -, rfl⟩ <;>
    exact ⟨rfl, fun _ => ⟨rfl, rfl, rfl, rfl, rfl⟩⟩

/-! ## The tree of one leaf (R95, R108) -/

/-- The two nodes of a table with one entry hold a root whose left child is the leaf. -/
theorem treeOf_single {tm : Store TreeNode} {sym : Symbol} {w : Nat} (h0 : tm.read 0 = some (leafNode sym w))
    (h1 : tm.read 1 = some (internalNode w 0#9 NIL)) :
    treeOf tm 1#9 = some (.node w (.leaf sym w) .missing) :=
  treeOfWithin_mono (fuel := 3) (by simp [treeOfWithin, h0, h1, leafNode, internalNode, NIL]) (by decide)

/-- In the tree of one leaf that leaf's symbol has the code 0, and no other symbol has a code. -/
theorem codeOf_single (sym x : Symbol) (w : Nat) :
    codeOf (.node w (.leaf sym w) .missing) x = if x = sym then some [false] else none := by
  rw [codeOf, show generateCodes (.node w (.leaf sym w) .missing) = [(sym, [false])] from rfl,
    List.lookup_cons]
  by_cases hx : x = sym
  · simp [hx]
  · simp [hx, beq_eq_false_iff_ne.2 hx]

/-- Settles O39: BUILD gives the tree of one leaf, whose code table has one path. -/
theorem oneSymbolCodeIsZero : Obligations.OneSymbolCodeIsZero := by
  intro s sym count hft hcount
  obtain ⟨t, hbuild, hok, hroot, -, h0, h1⟩ := buildOfOneEntry s sym count hft hcount
  have hvalid : t.treeValid = true := by
    obtain ⟨-, -, rfl⟩ := execBuild_ok hbuild hok
    rfl
  obtain ⟨codes, hgen, hmatch⟩ := execGen_of_shape (execBuild_shape hbuild hok).1 hvalid
  obtain ⟨T, hT, hcodes⟩ := hmatch.exists_codeIn
  obtain rfl : Tree.node count (.leaf sym count) .missing = T :=
    Option.some.inj ((treeOf_single h0 h1).symm.trans (hroot ▸ hT))
  exact ⟨t, _, hbuild, hgen, rfl, fun x => (hcodes x).trans (codeOf_single sym x count)⟩

end Sys2Proof.Machine
end

section
/-! ENC over a valid code table: the lookup loop of R118 against `encode` of R115, the two answers it then gives
(R118, R119), and the frame (R120, R121). -/

namespace Sys2Proof.Machine

variable {s : State} {symbols : List Symbol} {out : List Digit}

/-! ## The lookup loop (R115, R118) -/

/-- A sequence is encoded when its first symbol has a code and the rest is encoded, the code going first. -/
theorem encodeSequence_cons_eq_some {codes : Symbol → Option (List Digit)} {sym : Symbol} :
    encodeSequence codes (sym :: symbols) = some out ↔
      ∃ p tail, codes sym = some p ∧ encodeSequence codes symbols = some tail ∧ p ++ tail = out := by
  rw [encodeSequence]
  cases codes sym <;> cases encodeSequence codes symbols <;> simp

/-- A symbol has the code p when CT has a valid entry for it whose digits are p (R24). -/
theorem State.codeIn_eq_some {sym : Symbol} {p : List Digit} :
    s.codeIn sym = some p ↔ ∃ entry, s.ct.read sym.toNat = some entry ∧ entry.digits = p :=
  Option.map_eq_some_iff

/-- The loop over symbols that all have codes gives what `encode` of R115 gives, from whatever position. -/
theorem encodeSlots_map_some (i : Nat) (h : encodeSequence s.codeIn symbols = some out) :
    encodeSlots s.ct i (symbols.map some) = .ok out := by
  induction symbols generalizing i out with
  | nil =>
    cases h
    rfl
  | cons sym rest ih =>
    obtain ⟨p, tail, hp, htail, rfl⟩ := encodeSequence_cons_eq_some.1 h
    obtain ⟨entry, hread, rfl⟩ := State.codeIn_eq_some.1 hp
    simp [encodeSlots, hread, ih (i + 1) htail]

/-! ## ENC where every symbol has a code (R118, R119) -/

/-- ENC on symbols that all have codes: the check of the capacity decides between its two answers. -/
theorem exec_enc_of_encodeSequence (hv : s.ctValid = true) (hsi : HoldsSymbols s symbols)
    (h : encodeSequence s.codeIn symbols = some out) :
    exec .enc s = if out.length > s.params.bitCapacity then
        .next (s.dropBits.endWith .capacityExceeded)
      else .next ((s.putBits out).endWith .ok) := by
  have hloop : encodeSlots s.ct 0 s.symbolSlots = .ok out := hsi ▸ encodeSlots_map_some 0 h
  by_cases hc : out.length > s.params.bitCapacity <;>
    simp [execEnc, encodeInput, hv, hloop, hc]

/-- A bitstream whose length BS_LEN can hold is the operand of a DEC that follows. -/
theorem holdsDigits_putBits (s : State) (hlen : out.length < 2 ^ 32) : HoldsDigits (s.putBits out) out := by
  rw [HoldsDigits, State.bitSlots, State.putBits_bsLen, State.putBits_bs, toNat_ofNat_eq hlen,
    Store.slots_ofList]

/-- Settles O40: the loop gives the concatenation, which passes the check of the capacity. -/
theorem encConcatenatesTheCodes : Obligations.EncConcatenatesTheCodes := by
  intro s symbols out hp hv hsi henc hle
  have hlen : out.length < 2 ^ 32 := hle.trans_lt (Params.capacities_lt hp).2
  refine ⟨(s.putBits out).endWith .ok, ?next, rfl, toNat_ofNat_eq hlen, holdsDigits_putBits s hlen,
    fun j hj => ?above⟩
  case next => rw [exec_enc_of_encodeSequence hv hsi henc, if_neg (Nat.not_lt.2 hle)]
  case above => rw [State.endWith_bs, State.putBits_bs, Store.read_ofList, List.getElem?_eq_none hj]

/-- Settles O42: the loop gives the concatenation, which fails the check of the capacity. -/
theorem encRefusesTooLongBitstreams : Obligations.EncRefusesTooLongBitstreams := by
  intro s symbols out hv hsi henc hgt
  rw [exec_enc_of_encodeSequence hv hsi henc, if_pos hgt]
  rfl

/-! ## The frame (R120, R121) -/

/-- Settles O45: in three of ENC's outcomes the bitstream is dropped, the fourth has status 0. -/
theorem encFrame : Obligations.EncFrame := by
  intro s t h
  rw [exec_enc] at h
  rcases execEnc_next h with ⟨-, rfl⟩ | ⟨-, _, -, rfl⟩ | ⟨-, _, -, -, rfl⟩ | ⟨-, out, -, -, rfl⟩
  case inr.inr.inr => exact ⟨rfl, fun _ => ⟨rfl, rfl, rfl, rfl, rfl⟩, fun hfail => absurd rfl hfail⟩
  all_goals exact ⟨rfl, fun _ => ⟨rfl, rfl, rfl, rfl, rfl⟩, fun _ => ⟨rfl, fun _ => rfl⟩⟩

end Sys2Proof.Machine
end

section
/-! DEC on a tree of the shape of R30 (b): its state machine refines `decode` of R125, which undoes a
concatenation of codes (R125, R130), and what follows for truncated streams (R127), for NullTraversal (R128), for
the empty stream (R129) and for the frame (R132, R133). -/

namespace Sys2Proof.Machine

/-! ## One digit of `decode` (R125, R126) -/

/-- The subtree a digit selects, `missing` where there is none (R125). -/
def Tree.branch : Tree → Digit → Tree
  | .node _ l r, d => if d then r else l
  | _, _ => .missing

section Digit

variable {T : Tree} {cursor : Option Tree} {d : Digit} {rest : List Digit}

theorem decodeFrom_missing (h : (cursor.getD T).branch d = .missing) :
    decodeFrom T cursor (d :: rest) = .error .nullTraversal := by
  cases hget : cursor.getD T with
  | missing | leaf => simp only [decodeFrom, hget]
  | node w l r =>
    rw [hget, Tree.branch] at h
    simp only [decodeFrom, hget, h]

theorem decodeFrom_leaf {sym : Symbol} {w : Nat} (h : (cursor.getD T).branch d = .leaf sym w) :
    decodeFrom T cursor (d :: rest) = (decodeFrom T none rest).map (sym :: ·) := by
  cases hget : cursor.getD T with
  | missing | leaf => simp [hget, Tree.branch] at h
  | node w' l r =>
    rw [hget, Tree.branch] at h
    simp only [decodeFrom, hget, h]
    cases decodeFrom T none rest <;> rfl

theorem decodeFrom_node {w : Nat} {l r : Tree} (h : (cursor.getD T).branch d = .node w l r) :
    decodeFrom T cursor (d :: rest) = decodeFrom T (some (.node w l r)) rest := by
  cases hget : cursor.getD T with
  | missing | leaf => simp [hget, Tree.branch] at h
  | node w' l' r' =>
    rw [hget, Tree.branch] at h
    simp only [decodeFrom, hget, h]

end Digit

/-! ## The tree in TM (R22) -/

/-- TM holds the tree T below node n, whatever the number of links that takes. -/
def HoldsTree (tm : Store TreeNode) (n : NodeIndex) (T : Tree) : Prop :=
  ∃ fuel, treeOfWithin tm fuel n = some T

section Held

variable {p : Params} {tm : Store TreeNode} {root nnodes n : BitVec 9} {T : Tree}

/-- Below NIL there is no tree, below a leaf a leaf, below an internal node its children's trees. -/
theorem HoldsTree.cases_node (h : HoldsTree tm n T) :
    (n = NIL ∧ T = .missing) ∨
    (n ≠ NIL ∧ ∃ node, tm.read n.toNat = some node ∧
      ((node.kind = .leaf ∧ T = .leaf node.sym node.weight) ∨
       (node.kind = .internal ∧ ∃ l r, HoldsTree tm (node.child false) l ∧
          HoldsTree tm (node.child true) r ∧ T = .node node.weight l r))) := by
  obtain ⟨fuel, h⟩ := h
  cases fuel with
  | zero => cases h
  | succ fuel =>
    rw [treeOfWithin] at h
    split_ifs at h with hn
    · exact .inl ⟨hn, (Option.some.inj h).symm⟩
    · refine .inr ⟨hn, ?_⟩
      split at h
      · cases h
      · rename_i node hnode
        refine ⟨node, hnode, ?_⟩
        split at h
        · rename_i hkind
          exact .inl ⟨hkind, (Option.some.inj h).symm⟩
        · rename_i hkind
          split at h
          · rename_i l r hl hr
            exact .inr ⟨hkind, l, r, ⟨fuel, hl⟩, ⟨fuel, hr⟩, (Option.some.inj h).symm⟩
          · cases h

/-- Where a tree with children is held, the node's links lead to the subtrees. -/
theorem HoldsTree.child {w : Nat} {l r : Tree} (h : HoldsTree tm n (.node w l r)) (d : Digit) :
    ∃ node, tm.read n.toNat = some node ∧ HoldsTree tm (node.child d) ((Tree.node w l r).branch d) := by
  rcases h.cases_node with ⟨-, h⟩ | ⟨-, node, hnode, ⟨-, h⟩ | ⟨-, l', r', hl, hr, h⟩⟩ <;> cases h
  exact ⟨node, hnode, by cases d <;> assumption⟩

/-- The tree below the root is not a leaf (R95, R100). -/
theorem TreeShape.holdsTree_root (h : TreeShape p tm root nnodes) (hT : HoldsTree tm root T) :
    ∃ w l r, T = .node w l r := by
  rcases hT.cases_node with ⟨hnil, -⟩ | ⟨-, node, hnode, ⟨hleaf, -⟩ | ⟨-, l, r, -, -, rfl⟩⟩
  · exact absurd hnil h.root_ne_nil
  · have := h.leaf_lt hnode hleaf
    have := h.leafCount_le_root
    omega
  · exact ⟨_, l, r, rfl⟩

end Held

/-! ## The state machine of R126 on TM refines `decode` -/

section Step

variable {tm : Store TreeNode} {root cur : NodeIndex} {d : Digit} {node c : TreeNode}
  (hnode : tm.read cur.toNat = some node)

include hnode

theorem decodeStep_nil (hd : node.child d = NIL) :
    decodeStep tm root cur d = .error (.raise .nullTraversal) := by
  rw [TreeNode.child] at hd
  simp [decodeStep, hnode, hd]

theorem decodeStep_leaf (hd : node.child d ≠ NIL) (hc : tm.read (node.child d).toNat = some c)
    (hkind : c.kind = .leaf) : decodeStep tm root cur d = .ok (root, some c.sym) := by
  rw [TreeNode.child] at hd hc
  simp [decodeStep, hnode, hd, hc, hkind]

theorem decodeStep_internal (hd : node.child d ≠ NIL) (hc : tm.read (node.child d).toNat = some c)
    (hkind : c.kind = .internal) : decodeStep tm root cur d = .ok (node.child d, none) := by
  rw [TreeNode.child] at hd hc
  simp [decodeStep, hnode, hd, hc, hkind, TreeNode.child]

end Step

/-- The cursor of R130 and the cursor of `decode`: both at the root, or both at an internal node below it. -/
inductive SameCursor (tm : Store TreeNode) (root : NodeIndex) : NodeIndex → Option Tree → Prop where
  | atRoot : SameCursor tm root root none
  | below {n : NodeIndex} {w : Nat} {l r : Tree} :
      n ≠ root → HoldsTree tm n (.node w l r) → SameCursor tm root n (some (.node w l r))

section Refinement

variable {p : Params} {tm : Store TreeNode} {root nnodes cur : BitVec 9} {T : Tree} {cursor : Option Tree}
  (h : TreeShape p tm root nnodes) (hT : HoldsTree tm root T) (hcur : SameCursor tm root cur cursor)

include h hT hcur

/-- The cursor stands on an internal node, which holds the tree that `decode` looks at. -/
theorem SameCursor.exists_holdsTree :
    ∃ w l r, cursor.getD T = .node w l r ∧ HoldsTree tm cur (.node w l r) := by
  cases hcur with
  | atRoot =>
    obtain ⟨w, l, r, rfl⟩ := h.holdsTree_root hT
    exact ⟨w, l, r, rfl, hT⟩
  | below _ hn => exact ⟨_, _, _, rfl, hn⟩

/-- One step of R126 does what the subtree selected by the digit says, and keeps the cursors together. -/
theorem SameCursor.decodeStep_cases (d : Digit) :
    ((cursor.getD T).branch d = .missing ∧
      decodeStep tm root cur d = .error (.raise .nullTraversal)) ∨
    (∃ sym w, (cursor.getD T).branch d = .leaf sym w ∧
      decodeStep tm root cur d = .ok (root, some sym)) ∨
    (∃ m w l r, (cursor.getD T).branch d = .node w l r ∧ decodeStep tm root cur d = .ok (m, none) ∧
      SameCursor tm root m (some (.node w l r))) := by
  obtain ⟨w, l, r, hget, hheld⟩ := hcur.exists_holdsTree h hT
  obtain ⟨node, hnode, hchild⟩ := hheld.child d
  rw [hget]
  rcases hchild.cases_node with ⟨hd, hC⟩ | ⟨hd, c, hc, ⟨hkind, hC⟩ | ⟨hkind, l', r', -, -, hC⟩⟩
  · exact .inl ⟨hC, decodeStep_nil hnode hd⟩
  · exact .inr (.inl ⟨_, _, hC, decodeStep_leaf hnode hd hc hkind⟩)
  · have hne : node.child d ≠ root := fun heq => by
      have := h.child_lt_root hnode hd
      rw [heq] at this
      omega
    exact .inr (.inr ⟨_, _, l', r', hC, decodeStep_internal hnode hd hc hkind, .below hne (hC ▸ hchild)⟩)

/-- The loop of R130 over digits that all hold values is `decode` of R125 on the tree in TM. -/
theorem SameCursor.decodeSlots_eq (j : Nat) (digits : List Digit) :
    decodeSlots tm root j cur (digits.map some) = (decodeFrom T cursor digits).mapError .raise := by
  induction digits generalizing j cur cursor with
  | nil =>
    cases hcur with
    | atRoot => simp [decodeSlots, decodeFrom, Except.mapError]
    | below hne _ => simp [decodeSlots, decodeFrom, Except.mapError, hne]
  | cons d rest ih =>
    rw [List.map_cons, decodeSlots]
    rcases hcur.decodeStep_cases h hT d with
      ⟨hC, hstep⟩ | ⟨sym, w, hC, hstep⟩ | ⟨m, w, l, r, hC, hstep, hnext⟩
    · rw [decodeFrom_missing hC, hstep]
      rfl
    · rw [decodeFrom_leaf hC, hstep]
      simp only [ih .atRoot]
      cases decodeFrom T none rest <;> rfl
    · rw [decodeFrom_node hC, hstep]
      simp only [ih hnext]
      cases decodeFrom T (some (.node w l r)) rest <;> rfl

end Refinement

/-! ## DEC's answers on a valid tree (R130, R131) -/

section Answers

variable {s : State} {T : Tree} {digits : List Digit} {out : List Symbol} {e : Status}
  (hs : Inv s) (ht : s.treeValid = true) (hT : treeOf s.tm s.root = some T) (hbs : HoldsDigits s digits)

include hs ht hT hbs

/-- DEC's loop from the root over digits that all hold values is `decode` on the tree in TM. -/
theorem decodeSlots_bitSlots :
    decodeSlots s.tm s.root 0 s.root s.bitSlots = (decodeSequence T digits).mapError .raise := by
  rw [show s.bitSlots = digits.map some from hbs]
  exact SameCursor.atRoot.decodeSlots_eq (hs.tree ht) ⟨_, hT⟩ 0 digits

/-- Where `decode` fails, DEC ends with the failure and no output (R131, R184). -/
theorem exec_dec_of_error (h : decodeSequence T digits = .error e) :
    exec .dec s = .next (s.dropOutput.endWith e) := by
  have hloop := decodeSlots_bitSlots hs ht hT hbs
  rw [h] at hloop
  simp [execDec, decodeInput, ht, hloop, Except.mapError]

/-- Where `decode` succeeds, the check of the capacity decides between DEC's two answers (R130). -/
theorem exec_dec_of_ok (h : decodeSequence T digits = .ok out) :
    exec .dec s = if out.length > s.params.symbolCapacity then
        .next (s.dropOutput.endWith .capacityExceeded)
      else .next ((s.putOutput out).endWith .ok) := by
  have hloop := decodeSlots_bitSlots hs ht hT hbs
  rw [h] at hloop
  by_cases hc : out.length > s.params.symbolCapacity <;>
    simp [execDec, decodeInput, ht, hloop, Except.mapError, hc]

end Answers

/-- A sequence whose length SO_LEN can hold is the output. -/
theorem holdsOutput_putOutput (s : State) {out : List Symbol} (hlen : out.length < 2 ^ 32) :
    HoldsOutput (s.putOutput out) out := by
  rw [HoldsOutput, State.putOutput_soLen, State.putOutput_so, toNat_ofNat_eq hlen, Store.slots_overlay]

/-- Settles O46: the state machine on TM refines `decode` (`SameCursor.decodeSlots_eq`), and a sequence that
passes the check of the capacity is read back from SO. -/
theorem decRefinesDecode : Obligations.DecRefinesDecode := by
  intro s digits hs ht hbs
  obtain ⟨T, hT, -⟩ := (hs.tree ht).exists_treeOf
  cases hdec : decodeSequence T digits with
  | error e =>
    refine ⟨_, T, exec_dec_of_error hs ht hT hbs hdec, hT, rfl, ?_⟩
    rw [hdec]
    exact ⟨rfl, rfl, rfl⟩
  | ok out =>
    have hexec := exec_dec_of_ok hs ht hT hbs hdec
    by_cases hc : out.length > s.params.symbolCapacity
    · rw [if_pos hc] at hexec
      refine ⟨_, T, hexec, hT, rfl, ?_⟩
      simp only [hdec]
      rw [if_neg (Nat.not_le.2 hc)]
      exact ⟨rfl, rfl, rfl⟩
    · have hle := Nat.not_lt.1 hc
      have hlen := hle.trans_lt (Params.capacities_lt hs.params).1
      rw [if_neg hc] at hexec
      refine ⟨_, T, hexec, hT, rfl, ?_⟩
      simp only [hdec]
      rw [if_pos hle]
      exact ⟨rfl, toNat_ofNat_eq hlen, holdsOutput_putOutput s hlen⟩

/-! ## `decode` along a path (R105, R125) -/

/-- The subtree a path of digits leads to. -/
def Tree.follow (T : Tree) (path : List Digit) : Tree := path.foldl Tree.branch T

@[simp] theorem Tree.follow_nil (T : Tree) : T.follow [] = T := rfl

@[simp] theorem Tree.follow_cons (T : Tree) (d : Digit) (path : List Digit) :
    T.follow (d :: path) = (T.branch d).follow path := rfl

theorem Tree.follow_append (T : Tree) (front back : List Digit) :
    T.follow (front ++ back) = (T.follow front).follow back := List.foldl_append

theorem Tree.follow_missing (path : List Digit) : Tree.missing.follow path = .missing := by
  induction path with
  | nil => rfl
  | cons d rest ih => exact ih

/-- A path of at least one digit leads somewhere only from a node with children. -/
theorem Tree.eq_node_of_follow {T C : Tree} {path : List Digit} (hne : path ≠ [])
    (h : T.follow path = C) (hC : C ≠ .missing) : ∃ w l r, T = .node w l r := by
  obtain ⟨d, rest, rfl⟩ := List.exists_cons_of_ne_nil hne
  cases T with
  | missing => exact absurd (h.symm.trans (Tree.follow_missing _)) hC
  | leaf sym w => exact absurd (h.symm.trans (Tree.follow_missing rest)) hC
  | node w l r => exact ⟨w, l, r, rfl⟩

/-- The paths of R105 lead to their symbols' leaves. -/
theorem follow_of_mem_paths {T : Tree} {sym : Symbol} {path front : List Digit}
    (h : (sym, path) ∈ paths T front) : ∃ tail w, path = front ++ tail ∧ T.follow tail = .leaf sym w := by
  induction T generalizing front with
  | missing => cases h
  | leaf x w =>
    obtain ⟨rfl, rfl⟩ := Prod.mk.inj (List.mem_singleton.1 h)
    exact ⟨[], w, by simp, rfl⟩
  | node w l r ihl ihr =>
    rcases List.mem_append.1 h with h | h
    · obtain ⟨tail, w', rfl, hleaf⟩ := ihl h
      exact ⟨false :: tail, w', by simp, hleaf⟩
    · obtain ⟨tail, w', rfl, hleaf⟩ := ihr h
      exact ⟨true :: tail, w', by simp, hleaf⟩

theorem follow_of_codeOf {T : Tree} {sym : Symbol} {path : List Digit} (h : codeOf T sym = some path) :
    ∃ w, T.follow path = .leaf sym w := by
  obtain ⟨tail, w, rfl, hleaf⟩ := follow_of_mem_paths (mem_of_lookup h)
  exact ⟨w, hleaf⟩

section Path

variable {T : Tree} {cursor : Option Tree} {path rest : List Digit} {w : Nat}

/-- Digits that lead to a node with children move the cursor there and give no symbol. -/
theorem decodeFrom_append_node {l r : Tree} (hne : path ≠ [])
    (h : (cursor.getD T).follow path = .node w l r) :
    decodeFrom T cursor (path ++ rest) = decodeFrom T (some (.node w l r)) rest := by
  induction path generalizing cursor with
  | nil => exact absurd rfl hne
  | cons d path ih =>
    rw [Tree.follow_cons] at h
    rw [List.cons_append]
    by_cases hnil : path = []
    · subst hnil
      exact decodeFrom_node h
    · obtain ⟨w', l', r', hC⟩ := Tree.eq_node_of_follow hnil h (by simp)
      rw [decodeFrom_node hC]
      exact ih hnil (by rwa [hC] at h)

/-- Digits that lead from the root to a leaf give its symbol, and the cursor is at the root again. -/
theorem decodeFrom_append_leaf {sym : Symbol} (hne : path ≠ []) (h : T.follow path = .leaf sym w) :
    decodeFrom T none (path ++ rest) = (decodeFrom T none rest).map (sym :: ·) := by
  obtain ⟨front, d, rfl⟩ := (List.eq_nil_or_concat path).resolve_left hne
  rw [List.concat_eq_append, Tree.follow_append] at h
  rw [List.concat_eq_append, List.append_assoc, List.singleton_append]
  by_cases hnil : front = []
  · subst hnil
    exact decodeFrom_leaf h
  · obtain ⟨w', l', r', hN⟩ := Tree.eq_node_of_follow (List.cons_ne_nil _ _) h (by simp)
    rw [hN] at h
    rw [decodeFrom_append_node (cursor := none) hnil hN]
    exact decodeFrom_leaf h

end Path

/-- `decode` of a concatenation of codes gives the symbols, and goes on at the root (R125, R166). -/
theorem decodeFrom_append_encodeSequence {w : Nat} {l r : Tree} {symbols : List Symbol}
    {digits rest : List Digit}
    (h : encodeSequence (codeOf (.node w l r)) symbols = some digits) :
    decodeFrom (.node w l r) none (digits ++ rest) =
      (decodeFrom (.node w l r) none rest).map (symbols ++ ·) := by
  induction symbols generalizing digits with
  | nil =>
    cases h
    cases hrest : decodeFrom (.node w l r) none rest <;> simp [hrest, Except.map]
  | cons sym symbols ih =>
    obtain ⟨path, tail, hpath, htail, rfl⟩ := encodeSequence_cons_eq_some.1 h
    obtain ⟨w', hleaf⟩ := follow_of_codeOf hpath
    have hne : path ≠ [] := by
      rintro rfl
      cases hleaf
    rw [List.append_assoc, decodeFrom_append_leaf hne hleaf, ih htail]
    cases decodeFrom (.node w l r) none rest <;> rfl

/-! ## DEC of whole and of truncated streams (R125, R127) -/

/-- A valid code table comes with a tree whose paths are its codes, and whose root is no leaf. -/
theorem Inv.exists_codeTree {s : State} (hs : Inv s) (hv : s.ctValid = true) :
    ∃ w l r, treeOf s.tm s.root = some (.node w l r) ∧ s.codeIn = codeOf (.node w l r) := by
  obtain ⟨T, hT, hcodes⟩ := (hs.codes hv).exists_codeIn
  obtain ⟨w, l, r, rfl⟩ := (hs.tree (hs.flags hv)).holdsTree_root ⟨_, hT⟩
  exact ⟨w, l, r, hT, funext hcodes⟩

/-- Settles O47: `decode` undoes the concatenation of codes and ends at the root. -/
theorem decRecoversTheSymbols : Obligations.DecRecoversTheSymbols := by
  intro s symbols digits hs hv henc hbs hle
  obtain ⟨w, l, r, hT, hcodes⟩ := hs.exists_codeTree hv
  rw [hcodes] at henc
  have hdec : decodeSequence (.node w l r) digits = .ok symbols := by
    have := decodeFrom_append_encodeSequence (rest := []) henc
    simpa [decodeSequence, decodeFrom, Except.map] using this
  have hlen := hle.trans_lt (Params.capacities_lt hs.params).1
  refine ⟨(s.putOutput symbols).endWith .ok, ?_, rfl, toNat_ofNat_eq hlen, holdsOutput_putOutput s hlen⟩
  rw [exec_dec_of_ok hs (hs.flags hv) hT hbs hdec, if_neg (Nat.not_lt.2 hle)]

/-- Settles O49: after the whole codes the cursor is at the root, and the part of a code leaves it at a node
with children. -/
theorem truncatedStreamIsMalformed : Obligations.TruncatedStreamIsMalformed := by
  intro s symbols sym whole cut lost hs hv henc hcode hcut hlost hbs
  obtain ⟨w, l, r, hT, hcodes⟩ := hs.exists_codeTree hv
  rw [hcodes] at henc hcode
  obtain ⟨w', hleaf⟩ := follow_of_codeOf hcode
  rw [Tree.follow_append] at hleaf
  obtain ⟨wn, ln, rn, hcutNode⟩ := Tree.eq_node_of_follow hlost hleaf (by simp)
  have hpart : decodeFrom (.node w l r) none cut = .error .malformedStream := by
    have := decodeFrom_append_node (cursor := none) (rest := []) hcut hcutNode
    simpa [decodeFrom] using this
  refine exec_dec_of_error hs (hs.flags hv) hT hbs ?_
  rw [decodeSequence, decodeFrom_append_encodeSequence henc, hpart]
  rfl

/-! ## NullTraversal (R128) -/

/-- Every node of a tree is a leaf or has both children. -/
def Tree.Full : Tree → Prop
  | .missing => False
  | .leaf _ _ => True
  | .node _ l r => l.Full ∧ r.Full

theorem Tree.Full.branch {w : Nat} {l r : Tree} (h : (Tree.node w l r).Full) (d : Digit) :
    ((Tree.node w l r).branch d).Full := by
  obtain ⟨hl, hr⟩ := h
  cases d
  · exact hl
  · exact hr

/-- With two or more leaves every internal node has both its links (R100). -/
theorem TreeShape.child_ne_nil {p : Params} {tm : Store TreeNode} {root nnodes : BitVec 9}
    (h : TreeShape p tm root nnodes) (h2 : 2 ≤ leafCount tm) {i : Nat} {node : TreeNode}
    (hnode : tm.read i = some node) (hkind : node.kind = .internal) (d : Digit) : node.child d ≠ NIL := by
  rcases h.node_cases hnode with ⟨-, hleaf, -⟩ | ⟨hle, -, -⟩
  · rw [hkind] at hleaf
    cases hleaf
  · have hlt := h.read_lt hnode
    have hmax := nnodes.isLt
    obtain ⟨l, r, a, b, heq, hl, hr, -, -⟩ := h.internals h2 i hle hlt
    obtain rfl := Option.some.inj (hnode.symm.trans heq)
    have hne : ∀ m : NodeIndex, m.toNat < i → m ≠ NIL := by
      rintro m hm rfl
      simp at hm
      omega
    cases d
    · exact hne l hl
    · exact hne r hr

/-- With two or more leaves the tree in TM is full. -/
theorem TreeShape.full_of_holdsTree {p : Params} {tm : Store TreeNode} {root nnodes n : BitVec 9} {T : Tree}
    (h : TreeShape p tm root nnodes) (h2 : 2 ≤ leafCount tm) (hn : n ≠ NIL) (hT : HoldsTree tm n T) :
    T.Full := by
  induction T generalizing n with
  | missing =>
    rcases hT.cases_node with ⟨hnil, -⟩ | ⟨-, _, -, ⟨-, hT⟩ | ⟨-, _, _, -, -, hT⟩⟩
    · exact hn hnil
    · cases hT
    · cases hT
  | leaf sym w => trivial
  | node w l r ihl ihr =>
    rcases hT.cases_node with ⟨-, hT⟩ | ⟨-, node, hnode, ⟨-, hT⟩ | ⟨hkind, l', r', hl, hr, hT⟩⟩ <;> cases hT
    exact ⟨ihl (h.child_ne_nil h2 hnode hkind false) hl, ihr (h.child_ne_nil h2 hnode hkind true) hr⟩

/-- On a full tree `decode` never looks for a missing child. -/
theorem decodeFrom_ne_nullTraversal {w : Nat} {l r : Tree} (hfull : (Tree.node w l r).Full)
    (digits : List Digit) {cursor : Option Tree}
    (hcur : ∃ w' l' r', cursor.getD (.node w l r) = .node w' l' r' ∧ (Tree.node w' l' r').Full) :
    decodeFrom (.node w l r) cursor digits ≠ .error .nullTraversal := by
  induction digits generalizing cursor with
  | nil =>
    rw [decodeFrom]
    split_ifs <;> simp
  | cons d rest ih =>
    obtain ⟨w', l', r', hget, hcurFull⟩ := hcur
    have hC := hcurFull.branch d
    rw [← hget] at hC
    cases hbranch : (cursor.getD (.node w l r)).branch d with
    | missing => rw [hbranch] at hC; exact hC.elim
    | leaf sym _ =>
      rw [decodeFrom_leaf hbranch]
      have := ih (cursor := none) ⟨w, l, r, rfl, hfull⟩
      cases hrest : decodeFrom (.node w l r) none rest <;> simp_all [Except.map]
    | node w'' l'' r'' =>
      rw [decodeFrom_node hbranch]
      exact ih ⟨w'', l'', r'', rfl, hbranch ▸ hC⟩

/-- On the tree of one leaf `decode` looks for the missing child exactly at a digit 1 (R95, R128). -/
theorem decodeSequence_single (sym : Symbol) (w : Nat) (digits : List Digit) :
    decodeSequence (.node w (.leaf sym w) .missing) digits = .error .nullTraversal ↔ true ∈ digits := by
  induction digits with
  | nil => simp [decodeSequence, decodeFrom]
  | cons d rest ih =>
    rw [decodeSequence] at ih ⊢
    cases d with
    | true => exact iff_of_true (decodeFrom_missing rfl) List.mem_cons_self
    | false =>
      rw [decodeFrom_leaf (cursor := none) (d := false) (sym := sym) (w := w) rfl,
        show true ∈ false :: rest ↔ true ∈ rest by simp, ← ih]
      cases decodeFrom (.node w (.leaf sym w) .missing) none rest <;> simp [Except.map]

/-- A tree of one leaf in TM is the one BUILD makes of one entry (R95). -/
theorem TreeShape.treeOf_of_one_leaf {p : Params} {tm : Store TreeNode} {root nnodes : BitVec 9}
    (h : TreeShape p tm root nnodes) (h1 : leafCount tm = 1) :
    ∃ sym w, treeOf tm root = some (.node w (.leaf sym w) .missing) := by
  obtain ⟨sym, w, h0⟩ := h.leaves 0 (by omega)
  obtain ⟨a, ha, hroot⟩ := h.single h1
  obtain rfl := Option.some.inj (h0.symm.trans ha)
  have hnodes := h.nodeCount
  have hlast := h.rootLast
  rw [if_pos h1] at hnodes
  obtain rfl : root = 1#9 := BitVec.eq_of_toNat_eq (by simp; omega)
  exact ⟨sym, w, treeOf_single h0 hroot⟩

/-- DEC ends with NullTraversal exactly when `decode` does. -/
theorem exec_dec_nullTraversal_iff {s : State} {T : Tree} {digits : List Digit} (hs : Inv s)
    (ht : s.treeValid = true) (hT : treeOf s.tm s.root = some T) (hbs : HoldsDigits s digits) :
    (∃ t, exec .dec s = .next t ∧ t.status = .nullTraversal) ↔
      decodeSequence T digits = .error .nullTraversal := by
  cases hdec : decodeSequence T digits with
  | error e => simp [exec_dec_of_error hs ht hT hbs hdec, -exec_dec]
  | ok out =>
    rw [exec_dec_of_ok hs ht hT hbs hdec]
    split_ifs <;> simp

/-- Settles O48: the tree of one leaf misses one child, and a tree of more leaves none. -/
theorem nullTraversalExactly : Obligations.NullTraversalExactly := by
  intro s digits hs ht hbs
  have hshape := hs.tree ht
  by_cases h1 : leafCount s.tm = 1
  · obtain ⟨sym, w, hT⟩ := hshape.treeOf_of_one_leaf h1
    rw [exec_dec_nullTraversal_iff hs ht hT hbs, decodeSequence_single]
    exact (and_iff_right h1).symm
  · obtain ⟨T, hT, -⟩ := hshape.exists_treeOf
    have h2 : 2 ≤ leafCount s.tm := by
      have := hshape.leafBound.1
      omega
    have hfull := hshape.full_of_holdsTree h2 hshape.root_ne_nil ⟨_, hT⟩
    obtain ⟨w, l, r, rfl⟩ := hshape.holdsTree_root ⟨_, hT⟩
    rw [exec_dec_nullTraversal_iff hs ht hT hbs]
    exact iff_of_false (decodeFrom_ne_nullTraversal hfull digits ⟨w, l, r, rfl, hfull⟩) (fun h => h1 h.1)

/-! ## The empty stream and the frame (R129, R132, R133) -/

/-- Writing the empty sequence over a store leaves it as it was. -/
@[simp] theorem Store.overlay_nil {α : Type} (st : Store α) : st.overlay [] = st := by
  simp [Store.overlay, Store.ofList, Store.ofListFrom]

/-- Settles O50: without digits the loop ends at the root, and the empty sequence is put. -/
theorem decOfTheEmptyStream : Obligations.DecOfTheEmptyStream := by
  intro s ht hlen
  have hslots : s.bitSlots = [] := by simp [State.bitSlots, Store.slots, hlen]
  simp [execDec, decodeInput, ht, hslots, decodeSlots, State.putOutput, State.endWith]

/-- Settles O51: in three of DEC's outcomes the output is dropped, in the fourth it is written over SO. -/
theorem decFrame : Obligations.DecFrame := by
  intro s t h
  rw [exec_dec] at h
  rcases execDec_next h with ⟨-, rfl⟩ | ⟨-, e, he, rfl⟩ | ⟨-, _, -, -, rfl⟩ | ⟨-, out, hout, -, rfl⟩ <;>
    refine ⟨rfl, fun _ => ⟨rfl, rfl, rfl, rfl, rfl⟩, fun hok out' hout' i hi => ?_, fun hfail => ?_⟩
  case inl.refine_1 => cases hok
  case inr.inl.refine_1 => cases he.symm.trans hout'
  case inr.inr.inl.refine_1 => cases hok
  case inr.inr.inr.refine_1 =>
    obtain rfl := Except.ok.inj (hout.symm.trans hout')
    rw [State.endWith_so, State.putOutput_so, Store.read_overlay, if_neg (Nat.not_lt.2 hi)]
  case inr.inr.inr.refine_2 => exact absurd rfl hfail
  all_goals exact ⟨rfl, fun _ => rfl⟩

end Sys2Proof.Machine
end

section
/-! The host port and the session (44_session_and_host): which transactions the host may make, what an accepted
write replaces and a refused one leaves, what a write to CMD runs, and the end of a session. -/

namespace Sys2Proof.Machine

variable {s : State} {sp : Space} {r : Request} {rest : List HostEvent} {i w : Nat}

/-! ## Space numbers (R51, R77) -/

theorem Space.ofNumber_eq_some_iff {n : BitVec 3} : Space.ofNumber n = some sp ↔ n = sp.number := by
  cases sp <;> revert n <;> decide

theorem Space.ofNumber_eq_none_iff {n : BitVec 3} : Space.ofNumber n = none ↔ n = 7#3 := by
  revert n
  decide

/-! ## Accepted writes (R143) -/

theorem Request.wdata_lt_of_wellFormed {p : Params} (hwf : r.wellFormed p = true) (hwe : r.we = true)
    (hsp : r.space = sp.number) : r.wdata < 2 ^ sp.entryWidth p := by
  simpa [Request.wellFormed, hwe, hsp] using hwf

theorem step_accepted_write (hp : s.pending = .transaction r :: rest) (hwe : r.we = true)
    (hwf : r.wellFormed s.params = true) (hsp : r.space = sp.number)
    (hok : writable s.params sp r.index.toNat r.wdata = true) :
    step s = .next ((State.writeEntry { s with pending := rest } sp r.index.toNat r.wdata).respond
      writtenResponse) := by
  have hw := Request.wdata_lt_of_wellFormed hwf hwe hsp
  obtain ⟨we, space, index, wdata⟩ := r
  obtain rfl : we = true := hwe
  obtain rfl : space = sp.number := hsp
  exact step_write hp hw hok

/-- Below 2^(W_W + 1) the bit `present` is set from 2^W_W upward, and the rest is the count (R78). -/
theorem countOfWord_eq_ite {p : Params} (hw : w < 2 ^ (p.weightWidth + 1)) :
    countOfWord p w = if 2 ^ p.weightWidth ≤ w then some (w - 2 ^ p.weightWidth) else none := by
  unfold countOfWord
  by_cases hlow : 2 ^ p.weightWidth ≤ w
  · rw [if_pos hlow, if_pos (Nat.testBit_of_two_pow_le_and_two_pow_add_one_gt hlow hw),
      Nat.mod_eq_sub_mod hlow, Nat.mod_eq_of_lt (by omega)]
  · simp [hlow, Nat.testBit_lt_two_pow (Nat.lt_of_not_le hlow)]

theorem testBit_zero_eq_beq_one (hw : w < 2 ^ 1) : w.testBit 0 = (w == 1) := by
  obtain rfl | rfl : w = 0 ∨ w = 1 := by omega
  · rfl
  · rfl

/-- Settles O9: the write is accepted, and of the space's store it reaches the addressed entry alone
(`WritesTo`, `writeFrom_ft_frame`). -/
theorem acceptedWritesReplaceOneEntry : Obligations.AcceptedWritesReplaceOneEntry := by
  intro s r rest hp hwe hwf
  refine ⟨fun hsp hi hle => ?siLen, fun hsp hi hle => ?bsLen, fun hsp hi => ?ft, fun hsp hi => ?si,
    fun hsp hi => ?bs⟩
  case siLen =>
    rw [step_accepted_write (sp := .csr) hp hwe hwf hsp (by simp [writable, hi, hle]), hi]
    rfl
  case bsLen =>
    rw [step_accepted_write (sp := .csr) hp hwe hwf hsp (by simp [writable, hi, hle]), hi]
    rfl
  case ft =>
    have hstep := step_accepted_write (sp := .ft) hp hwe hwf hsp (decide_eq_true hi)
    have hcount := countOfWord_eq_ite (p := s.params)
      (Request.wdata_lt_of_wellFormed (sp := .ft) hwf hwe hsp)
    exact ⟨_, hstep.trans (congrArg Host.Outcome.next (writeFrom_ft_frame _ _ [r.wdata])),
      (writesTo_ft.same _ _ _).trans hcount, fun j hj => writesTo_ft.other _ _ j _ hj⟩
  case si =>
    have hstep := step_accepted_write (sp := .si) hp hwe hwf hsp (decide_eq_true hi)
    exact ⟨_, hstep, writesTo_si.same _ _ _, fun j hj => writesTo_si.other _ _ j _ hj⟩
  case bs =>
    have hstep := step_accepted_write (sp := .bs) hp hwe hwf hsp (decide_eq_true hi)
    have hdigit := testBit_zero_eq_beq_one (Request.wdata_lt_of_wellFormed (sp := .bs) hwf hwe hsp)
    exact ⟨_, hstep, (writesTo_bs.same _ _ _).trans (congrArg some hdigit),
      fun j hj => writesTo_bs.other _ _ j _ hj⟩

/-! ## Refused writes (R143) -/

/-- The host may write SI_LEN and BS_LEN up to their capacities, and the entries of FT, SI and BS (R143). -/
theorem writable_cases {p : Params} (h : writable p sp i w = true) :
    (sp = .csr ∧ i = 4 ∧ w ≤ p.symbolCapacity) ∨ (sp = .csr ∧ i = 5 ∧ w ≤ p.bitCapacity) ∨
    (sp = .ft ∧ i < 256) ∨ (sp = .si ∧ i < p.symbolCapacity) ∨ (sp = .bs ∧ i < p.bitCapacity) := by
  cases sp with
  | csr => simpa [writable] using h
  | ft | si | bs => simpa [Space.entries, Config.symbolCount] using of_decide_eq_true h
  | tm | ct | so => cases h

theorem step_refused_write (hp : s.pending = .transaction r :: rest) (hwe : r.we = true)
    (hcmd : ¬(r.space = Space.csr.number ∧ r.index.toNat = 7))
    (hno : ∀ sp, r.space = sp.number →
      ¬ writable s.params sp r.index.toNat (r.wdata % 2 ^ sp.entryWidth s.params) = true) :
    step s = .next (State.respond { s with pending := rest } refusedResponse) := by
  rw [step_transaction hp]
  rcases hostTransaction_write (s := { s with pending := rest }) hwe with ⟨hsp, hi, -⟩ | ⟨-, heq⟩
  · exact absurd ⟨Space.ofNumber_eq_some_iff.1 hsp, hi⟩ hcmd
  · rw [heq]
    rcases hostWrite_cases { s with pending := rest } (Space.ofNumber r.space) r.index.toNat r.wdata with
      hw | ⟨sp, hsp, hok, -⟩
    · rw [hw]
    · exact absurd hok (hno sp (Space.ofNumber_eq_some_iff.1 hsp))

/-- Settles O8: a writable entry would be one of the list that the hypothesis excludes. -/
theorem refusedWritesChangeNothing : Obligations.RefusedWritesChangeNothing := by
  intro s r rest hp hwe hwf hnot
  refine step_refused_write hp hwe (fun hcmd => hnot (.inl hcmd)) fun sp hsp hok => hnot (.inr ?_)
  have hne : r.space ≠ 7#3 := by
    rw [hsp]
    cases sp <;> decide
  rw [Nat.mod_eq_of_lt (Request.wdata_lt_of_wellFormed (hwf hne) hwe hsp)] at hok
  rcases writable_cases hok with ⟨rfl, h⟩ | ⟨rfl, h⟩ | ⟨rfl, h⟩ | ⟨rfl, h⟩ | ⟨rfl, h⟩
  · exact .inl ⟨hsp, h⟩
  · exact .inr (.inl ⟨hsp, h⟩)
  · exact .inr (.inr (.inl ⟨hsp, h⟩))
  · exact .inr (.inr (.inr (.inl ⟨hsp, h⟩)))
  · exact .inr (.inr (.inr (.inr ⟨hsp, h⟩)))

/-! ## Reads (R142) -/

/-- The spaces by number, each with the indices below its size; of CSR all but register 7, CMD (R51, R142). -/
theorem readable_iff {p : Params} : readable p sp i = true ↔
    (sp.number = 0#3 ∧ i < 7) ∨ (sp.number = 1#3 ∧ i < 256) ∨ (sp.number = 2#3 ∧ i < 511) ∨
    (sp.number = 3#3 ∧ i < 256) ∨ (sp.number = 4#3 ∧ i < p.symbolCapacity) ∨
    (sp.number = 5#3 ∧ i < p.bitCapacity) ∨ (sp.number = 6#3 ∧ i < p.symbolCapacity) := by
  rw [readable, Bool.and_eq_true, decide_eq_true_eq]
  cases sp with
  | csr =>
    simp [Space.number, Space.entries]
    omega
  | ft | tm | ct | si | bs | so =>
    simp [Space.number, Space.entries, Config.symbolCount, Config.nodeCapacity]

theorem hostRead_not_readable (hno : ¬ readable s.params sp i = true) :
    hostRead s (some sp) i = s.respond refusedResponse :=
  if_neg hno

/-- Settles O7: the port's answer by whether the number names a space and whether its entry may be read. -/
theorem hostReadsChangeNothing : Obligations.HostReadsChangeNothing := by
  intro s r rest hp hwe
  rw [step_transaction hp, hostTransaction_read hwe]
  cases hsp : Space.ofNumber r.space with
  | none =>
    have h7 := Space.ofNumber_eq_none_iff.1 hsp
    exact ⟨refusedResponse, rfl, by simp [refusedResponse, h7], fun _ h => by cases h⟩
  | some sp =>
    rw [Space.ofNumber_eq_some_iff.1 hsp, ← readable_iff]
    by_cases hok : readable s.params sp r.index.toNat = true
    · refine ⟨⟨false, s.entryWord sp r.index.toNat⟩, congrArg _ (hostRead_readable hok), by simp [hok], ?_⟩
      rintro _ ⟨⟩ -
      rfl
    · exact ⟨refusedResponse, congrArg _ (hostRead_not_readable hok), by simp [refusedResponse, hok],
        fun _ _ h => by cases h⟩

/-! ## Commands (R141, R144) -/

theorem step_command (hp : s.pending = .transaction r :: rest) (hwe : r.we = true) (hsp : r.space = 0#3)
    (hi : r.index = 7#32) :
    step s = hostCommand { s with pending := rest } (BitVec.ofNat 32 r.wdata) := by
  rw [step_transaction hp]
  rcases hostTransaction_write (s := { s with pending := rest }) hwe with ⟨-, -, heq⟩ | ⟨hno, -⟩
  · exact heq
  · exact absurd ⟨Space.ofNumber_eq_some_iff.2 hsp, congrArg BitVec.toNat hi⟩ hno

/-- Settles O4: the transaction is a command issue, and the decoder answers with the command. -/
theorem stepRunsTheDecodedCommand : Obligations.StepRunsTheDecodedCommand := by
  intro s r rest i hp hwe hsp hi hdec
  rw [step_command hp hwe hsp hi]
  simp only [hostCommand, hdec]
  cases exec i { s with pending := rest } <;> rfl

theorem encode_toNat_bounds (i : Instr) : 1 ≤ (encode i).toNat ∧ (encode i).toNat ≤ 5 := by
  cases i <;> decide

theorem hostCommand_illegal {c : CommandWord} (h : ¬(1 ≤ c.toNat ∧ c.toNat ≤ 5)) :
    hostCommand s c = .next ((s.endWith .illegalCommand).respond (statusResponse .illegalCommand)) := by
  cases hdec : decode c with
  | error e => rw [hostCommand, hdec]
  | ok i => exact absurd (decode_eq_ok_iff.1 hdec ▸ encode_toNat_bounds i) h

/-- Settles O5: the transaction is a command issue, and its word is none of the encoder's. -/
theorem illegalWordsOnlySetStatus : Obligations.IllegalWordsOnlySetStatus := by
  intro s r rest hp hwe hsp hi hword
  rw [step_command hp hwe hsp hi]
  exact hostCommand_illegal (by rwa [BitVec.toNat_ofNat])

/-! ## The idle block and the end of a session (R140, R145, R191) -/

/-- Settles O6, by the port's own law. -/
theorem idleBlockHoldsItsState : Obligations.IdleBlockHoldsItsState :=
  fun _ hp => step_idle hp

/-- Settles O53: END's one next state has dropped the code table and then the tree. -/
theorem endClosesTheSession : Obligations.EndClosesTheSession := fun s =>
  ⟨_, execEndSession_eq s, noTree_dropTree s.dropCodes, noCodes_of_dropped rfl rfl, rfl⟩

end Sys2Proof.Machine
end

section
/-! The tree of R93 and R94 as a value: the greedy forest of trees, which the combine loop holds in TM, so that
what every greedy step keeps is true of the tree BUILD makes (R157). -/

namespace Sys2Proof.Machine

/-! ## The greedy forest (R92 to R94) -/

/-- The forests that the entries `es` can become: the leaves, then at every step two trees of least weight put
under a node that adds their weights. -/
inductive Greedy (es : List (Symbol × Nat)) : List Tree → Prop where
  | leaves : Greedy es (es.map (fun e => .leaf e.1 e.2))
  | merge {ts rest : List Tree} {a b : Tree} : Greedy es ts → ts.Perm (a :: b :: rest) →
      (∀ c ∈ b :: rest, a.weight ≤ c.weight) → (∀ c ∈ rest, b.weight ≤ c.weight) →
      Greedy es (.node (a.weight + b.weight) a b :: rest)

@[simp] theorem totalCount_append (es es' : List (Symbol × Nat)) :
    totalCount (es ++ es') = totalCount es + totalCount es' := by
  simp [totalCount]

theorem totalCount_perm {es es' : List (Symbol × Nat)} (h : es.Perm es') : totalCount es = totalCount es' :=
  (h.map _).sum_eq

/-- A step puts two trees side by side, so the forest keeps its leaves. -/
theorem Greedy.leaves_perm {es : List (Symbol × Nat)} {ts : List Tree} (h : Greedy es ts) :
    (ts.flatMap Tree.leaves).Perm es := by
  induction h with
  | leaves => simp [List.flatMap_map, Tree.leaves]
  | merge _ hperm _ _ ih =>
    have hleaves := (hperm.flatMap_right Tree.leaves).symm.trans ih
    simpa [Tree.leaves] using hleaves

/-- In a greedy forest every node's weight is the sum of the leaves below it (R157). -/
theorem Greedy.conserves {es : List (Symbol × Nat)} {ts : List Tree} (h : Greedy es ts) :
    ∀ T ∈ ts, T.conserves ∧ T.weight = totalCount T.leaves := by
  induction h with
  | leaves =>
    intro T hT
    obtain ⟨e, -, rfl⟩ := List.mem_map.1 hT
    exact ⟨trivial, by simp [Tree.weight, Tree.leaves, totalCount]⟩
  | @merge ts rest a b _ hperm _ _ ih =>
    intro T hT
    rcases List.mem_cons.1 hT with rfl | hT
    · obtain ⟨ha, haw⟩ := ih a (hperm.mem_iff.2 (by simp))
      obtain ⟨hb, hbw⟩ := ih b (hperm.mem_iff.2 (by simp))
      have hsum : a.weight + b.weight = totalCount (a.leaves ++ b.leaves) := by
        rw [totalCount_append, haw, hbw]
      exact ⟨⟨hsum, ha, hb⟩, hsum⟩
    · exact ih T (hperm.mem_iff.2 (by simp [hT]))

/-! ## Trees held in TM (R22) -/

/-- No index of TM is NIL (R8). -/
theorem ofNat_ne_nil {k : Nat} (hk : k < 511) : BitVec.ofNat 9 k ≠ NIL := fun heq =>
  hk.ne ((ofNat_index_eq_iff (Nat.lt_succ_of_lt hk)).1 heq)

theorem toNat_ofNat_index {k : Nat} (hk : k < 511) : (BitVec.ofNat 9 k).toNat = k :=
  toNat_ofNat_eq (Nat.lt_succ_of_lt hk)

section Held

variable {tm tm' : Store TreeNode} {n : NodeIndex} {T T' L R : Tree} {node : TreeNode}

theorem holdsTree_of_treeOf (h : treeOf tm n = some T) : HoldsTree tm n T := ⟨_, h⟩

/-- TM holds one tree below a node, however many links are followed. -/
theorem HoldsTree.unique (h : HoldsTree tm n T) (h' : HoldsTree tm n T') : T = T' := by
  obtain ⟨fuel, h⟩ := h
  obtain ⟨fuel', h'⟩ := h'
  have hmax := treeOfWithin_mono h (le_max_left fuel fuel')
  have hmax' := treeOfWithin_mono h' (le_max_right fuel fuel')
  exact Option.some.inj (hmax.symm.trans hmax')

theorem holdsTree_leaf (hn : n ≠ NIL) (hread : tm.read n.toNat = some node) (hkind : node.kind = .leaf) :
    HoldsTree tm n (.leaf node.sym node.weight) :=
  ⟨1, by simp [treeOfWithin, hn, hread, hkind]⟩

theorem holdsTree_internal (hn : n ≠ NIL) (hread : tm.read n.toNat = some node) (hkind : node.kind = .internal)
    (hL : HoldsTree tm node.left L) (hR : HoldsTree tm node.right R) :
    HoldsTree tm n (.node node.weight L R) := by
  obtain ⟨fuel, hL⟩ := hL
  obtain ⟨fuel', hR⟩ := hR
  have hL := treeOfWithin_mono hL (le_max_left fuel fuel')
  have hR := treeOfWithin_mono hR (le_max_right fuel fuel')
  exact ⟨max fuel fuel' + 1, by simp [treeOfWithin, hn, hread, hkind, hL, hR]⟩

/-- A tree stays where it is while TM only grows. -/
theorem HoldsTree.mono (h : HoldsTree tm n T)
    (hread : ∀ i node, tm.read i = some node → tm'.read i = some node) : HoldsTree tm' n T := by
  induction T generalizing n with
  | missing =>
    rcases h.cases_node with ⟨rfl, -⟩ | ⟨-, _, -, ⟨-, hT⟩ | ⟨-, _, _, -, -, hT⟩⟩
    · exact ⟨1, by simp [treeOfWithin]⟩
    · cases hT
    · cases hT
  | leaf sym w =>
    rcases h.cases_node with ⟨-, hT⟩ | ⟨hn, node, hnode, ⟨hkind, hT⟩ | ⟨-, _, _, -, -, hT⟩⟩ <;> cases hT
    exact holdsTree_leaf hn (hread _ _ hnode) hkind
  | node w L R ihL ihR =>
    rcases h.cases_node with ⟨-, hT⟩ | ⟨hn, node, hnode, ⟨-, hT⟩ | ⟨hkind, _, _, hL, hR, hT⟩⟩ <;> cases hT
    exact holdsTree_internal hn (hread _ _ hnode) hkind (ihL hL) (ihR hR)

/-- The weight of a tree that is not missing is the weight field of its node. -/
theorem HoldsTree.exists_read_root (h : HoldsTree tm n T) (hn : n ≠ NIL) :
    ∃ node, tm.read n.toNat = some node ∧ T.weight = node.weight := by
  rcases h.cases_node with ⟨hnil, -⟩ | ⟨-, node, hnode, ⟨-, rfl⟩ | ⟨-, _, _, -, -, rfl⟩⟩
  · exact absurd hnil hn
  · exact ⟨node, hnode, rfl⟩
  · exact ⟨node, hnode, rfl⟩

end Held

/-! ## The combine loop makes the greedy forest (R92 to R94) -/

/-- The live node is the root of the tree, which the nodes made so far hold. -/
def Live.IsRootOf (ns : List TreeNode) (x : Live) (T : Tree) : Prop :=
  HoldsTree (Store.ofList ns) (BitVec.ofNat 9 x.index) T ∧ T.weight = x.weight

/-- The live nodes are the roots of a greedy forest, tree by tree. -/
def HoldsGreedy (es : List (Symbol × Nat)) (ns : List TreeNode) (q : List Live) : Prop :=
  ∃ ts, Greedy es ts ∧ List.Forall₂ (Live.IsRootOf ns) q ts

/-- The trees of the live nodes have the live nodes' weights. -/
theorem map_weight_of_roots {ns : List TreeNode} {q : List Live} {ts : List Tree}
    (h : List.Forall₂ (Live.IsRootOf ns) q ts) : ts.map Tree.weight = q.map Live.weight := by
  induction h with
  | nil => rfl
  | cons hroot _ ih => simp [hroot.2, ih]

/-- A lower bound of the live nodes' weights bounds the weights of their trees. -/
theorem le_weight_of_roots {ns : List TreeNode} {q : List Live} {ts : List Tree} {w : Nat}
    (h : List.Forall₂ (Live.IsRootOf ns) q ts) (hw : ∀ x ∈ q, w ≤ x.weight) : ∀ T ∈ ts, w ≤ T.weight := by
  intro T hT
  have hmem := List.mem_map_of_mem (f := Tree.weight) hT
  rw [map_weight_of_roots h] at hmem
  obtain ⟨x, hx, hxT⟩ := List.mem_map.1 hmem
  exact hxT ▸ hw x hx

theorem Live.weight_le_of_before {x y : Live} (h : x.before y = true) : x.weight ≤ y.weight := by
  have := Live.before_iff.1 h
  omega

theorem Live.IsRootOf.append {ns : List TreeNode} {x : Live} {T : Tree} (h : x.IsRootOf ns T)
    (tail : List TreeNode) : x.IsRootOf (ns ++ tail) T := by
  obtain ⟨hheld, hw⟩ := h
  refine ⟨hheld.mono fun i node hnode => ?_, hw⟩
  rw [Store.read_ofList] at hnode ⊢
  exact getElem?_append_of_some tail hnode

/-- Before the first step each live node is the root of its leaf. -/
theorem HoldsGreedy.init {es : List (Symbol × Nat)} (hle : es.length ≤ Config.symbolCount) :
    HoldsGreedy es (leafNodes es) (liveFrom 0 es) := by
  refine ⟨_, .leaves, ?_⟩
  rw [liveFrom_eq_map, List.forall₂_map_left_iff, List.forall₂_map_right_iff, List.forall₂_iff_get]
  refine ⟨by simp, fun i hi hi' => ?_⟩
  have hi : i < es.length := hi'
  have hi511 : i < 511 := hi.trans_le (hle.trans (by decide))
  simp only [List.get_eq_getElem, List.getElem_zipIdx, Nat.zero_add]
  refine ⟨holdsTree_leaf (node := leafNode es[i].1 es[i].2) (ofNat_ne_nil hi511) ?_ rfl, rfl⟩
  rw [toNat_ofNat_index hi511, Store.read_ofList, leafNodes_getElem?, List.getElem?_eq_getElem hi]
  rfl

/-- A combine step is a greedy step: the two live nodes taken have the least weights, and the new node holds
their trees. -/
theorem HoldsGreedy.step {es : List (Symbol × Nat)} {ns : List TreeNode} {q q1 q2 : List Live} {a b : Live}
    (h : HoldsGreedy es ns q) (hle : es.length ≤ Config.symbolCount) (hf : Forest es ns q)
    (ha : extractMin q = some (a, q1)) (hb : extractMin q1 = some (b, q2)) :
    HoldsGreedy es (ns ++ [a.parentNode b])
      ({ weight := a.weight + b.weight, index := ns.length } :: q2) := by
  obtain ⟨ts, hgreedy, hroots⟩ := h
  have hperm := (extractMin_perm ha).trans ((extractMin_perm hb).cons a)
  have hlen := hf.length_lt hle hperm
  have hne := hf.pairwise_index_ne hlen.le
  have hne1 : q1.Pairwise (fun x y => x.index ≠ y.index) :=
    (List.pairwise_cons.1 ((extractMin_perm ha).pairwise hne Ne.symm)).2
  obtain ⟨us, hus, husperm⟩ := List.perm_comp_forall₂ hperm.symm hroots
  obtain ⟨A, us1, hA, hus1, rfl⟩ := List.forall₂_cons_left_iff.1 hus
  obtain ⟨B, us2, hB, hus2, rfl⟩ := List.forall₂_cons_left_iff.1 hus1
  have haw : ∀ x ∈ b :: q2, A.weight ≤ x.weight := fun x hx => by
    rw [hA.2]
    exact Live.weight_le_of_before (extractMin_before hne ha x ((extractMin_perm hb).mem_iff.2 hx))
  have hbw : ∀ x ∈ q2, B.weight ≤ x.weight := fun x hx => by
    rw [hB.2]
    exact Live.weight_le_of_before (extractMin_before hne1 hb x hx)
  refine ⟨_, hgreedy.merge husperm.symm (le_weight_of_roots hus1 haw) (le_weight_of_roots hus2 hbw),
    .cons ⟨?_, congrArg₂ (· + ·) hA.2 hB.2⟩ (hus2.imp fun _ _ hroot => hroot.append _)⟩
  rw [hA.2, hB.2]
  refine holdsTree_internal (node := a.parentNode b) (ofNat_ne_nil hlen) ?_ rfl (hA.append _).1 (hB.append _).1
  rw [toNat_ofNat_index hlen, Store.read_ofList, List.getElem?_concat_length]

/-- Two or more entries: the nodes made hold, below the last of them, a tree that is a greedy forest. -/
theorem treeNodes_greedy {es : List (Symbol × Nat)} (h2 : 2 ≤ es.length) (hle : es.length ≤ Config.symbolCount) :
    ∃ T, Greedy es [T] ∧
      HoldsTree (Store.ofList (treeNodes es)) (BitVec.ofNat 9 ((treeNodes es).length - 1)) T := by
  have hq : liveFrom 0 es ≠ [] := List.ne_nil_of_length_pos (by rw [liveFrom_length]; omega)
  obtain ⟨x, hf, hg⟩ := combine_keeps (P := fun ns q => Forest es ns q ∧ HoldsGreedy es ns q)
    (fun ns q a b q1 q2 ha hb ⟨hf, hg⟩ =>
      ⟨hf.step hle ((extractMin_perm ha).trans ((extractMin_perm hb).cons a)), hg.step hle hf ha hb⟩)
    hq (fuel := es.length) (by simp) ⟨Forest.init es, HoldsGreedy.init hle⟩
  rw [leafNodes_length, ← treeNodes_many h2] at hf hg
  have hsize := hf.size
  simp only [List.length_cons, List.length_nil] at hsize
  obtain ⟨y, hy, hlast⟩ := hf.newest (by omega)
  obtain rfl := List.mem_singleton.1 hy
  obtain ⟨ts, hgreedy, hroots⟩ := hg
  obtain ⟨T, us, hroot, hnil, rfl⟩ := List.forall₂_cons_left_iff.1 hroots
  obtain rfl := List.forall₂_nil_left_iff.1 hnil
  exact ⟨T, hgreedy, by rw [← hlast, Nat.add_sub_cancel]; exact hroot.1⟩

/-! ## The tree BUILD makes -/

/-- What a table becomes: one entry the leaf under the synthesised root (R95), two or more entries a greedy
tree (R94). -/
def IsTreeOfTable (es : List (Symbol × Nat)) (T : Tree) : Prop :=
  (∃ e, es = [e] ∧ T = .node e.2 (.leaf e.1 e.2) .missing) ∨ (2 ≤ es.length ∧ Greedy es [T])

theorem IsTreeOfTable.leaves_perm {es : List (Symbol × Nat)} {T : Tree} (h : IsTreeOfTable es T) :
    T.leaves.Perm es := by
  rcases h with ⟨e, rfl, rfl⟩ | ⟨-, hgreedy⟩
  · exact .refl _
  · simpa using hgreedy.leaves_perm

theorem IsTreeOfTable.conserves {es : List (Symbol × Nat)} {T : Tree} (h : IsTreeOfTable es T) :
    T.conserves ∧ T.weight = totalCount es := by
  have hleaves := h.leaves_perm
  rcases h with ⟨e, rfl, rfl⟩ | ⟨-, hgreedy⟩
  · simp [Tree.conserves, Tree.weight, Tree.leaves, totalCount]
  · obtain ⟨hT, hw⟩ := hgreedy.conserves T (List.mem_singleton.2 rfl)
    exact ⟨hT, hw.trans (totalCount_perm hleaves)⟩

/-- After a successful BUILD TM holds, below ROOT, the tree of the table. -/
theorem execBuild_tree {s t : State} (h : exec .build s = .next t) (hok : t.status = .ok) :
    ∃ T, treeOf t.tm t.root = some T ∧ IsTreeOfTable (presentEntries s.ft) T := by
  obtain ⟨T, hT, -⟩ := (execBuild_shape h hok).1.exists_treeOf
  refine ⟨T, hT, ?_⟩
  obtain ⟨hne, -, rfl⟩ := execBuild_ok h hok
  by_cases h2 : 2 ≤ (presentEntries s.ft).length
  · obtain ⟨T', hgreedy, hheld⟩ := treeNodes_greedy h2 (presentEntries_length_le s.ft)
    obtain rfl := hheld.unique (holdsTree_of_treeOf hT)
    exact .inr ⟨h2, hgreedy⟩
  · have hpos := List.length_pos_iff.2 hne
    obtain ⟨e, he⟩ := List.length_eq_one_iff.1 (show (presentEntries s.ft).length = 1 by omega)
    refine .inl ⟨e, he, (Option.some.inj ?_).symm⟩
    rw [← hT, he]
    exact (treeOf_single rfl rfl).symm

/-- Settles O31: every step of the greedy forest keeps the leaves and the weights' sums. -/
theorem buildConservesWeight : Obligations.BuildConservesWeight := by
  intro s t h hok
  obtain ⟨T, hT, htable⟩ := execBuild_tree h hok
  obtain ⟨hconserves, hweight⟩ := htable.conserves
  obtain ⟨node, hnode, hw⟩ :=
    (holdsTree_of_treeOf hT).exists_read_root (execBuild_shape h hok).1.root_ne_nil
  exact ⟨T, node, hnode, hw ▸ hweight, hT, hw, hconserves, htable.leaves_perm⟩

end Sys2Proof.Machine
end

section
/-! The greedy tree is optimal (R160), by way of the depths alone: the leaves of a binary tree meet Kraft's
inequality, and every greedy step merges two of the weights of least weight, at no more cost, in whatever depths
meet it. So heavier leaves stand no deeper than lighter ones (R161). -/

namespace Sys2Proof.Machine

/-! ## Depths for weights -/

/-- The sum of weight times depth over a list of pairs (weight, depth). -/
def depthSum (l : List (Nat × Nat)) : Nat := (l.map (fun e => e.1 * e.2)).sum

@[simp] theorem depthSum_cons (e : Nat × Nat) (l : List (Nat × Nat)) :
    depthSum (e :: l) = e.1 * e.2 + depthSum l := by
  simp [depthSum]

theorem depthSum_perm {l l' : List (Nat × Nat)} (h : l.Perm l') : depthSum l = depthSum l' := (h.map _).sum_eq

/-- A level has twice the unit of the level below it. -/
theorem two_pow_sub {bound depth : Nat} (h : depth + 1 ≤ bound) :
    2 ^ (bound - depth) = 2 ^ (bound - (depth + 1)) * 2 := by
  rw [← pow_succ, ← Nat.sub_add_comm h, Nat.add_sub_add_right]

/-- Kraft's inequality for depths up to a bound, each 2^-depth counted in units of 2^-bound. -/
def Kraft (bound : Nat) (depths : List Nat) : Prop :=
  (∀ d ∈ depths, d ≤ bound) ∧ (depths.map (fun d => 2 ^ (bound - d))).sum ≤ 2 ^ bound

theorem Kraft.perm {bound : Nat} {l l' : List Nat} (h : Kraft bound l) (hl : l.Perm l') : Kraft bound l' :=
  ⟨fun d hd => h.1 d (hl.mem_iff.2 hd), (hl.map (fun d => 2 ^ (bound - d))).sum_eq ▸ h.2⟩

/-- The two deepest of some depths, not both at depth 0, may be replaced by one, a level above the second:
all other depths are multiples of that level's unit, so the sum without the deepest is a unit short. -/
theorem Kraft.merge {bound d e : Nat} {l : List Nat} (h : Kraft bound (d :: e :: l)) (hed : e ≤ d)
    (hl : ∀ c ∈ l, c ≤ e) : ∃ k, e = k + 1 ∧ Kraft bound (k :: l) := by
  obtain ⟨hbound, hsum⟩ := h
  have heb : e ≤ bound := hbound e (by simp)
  simp only [List.map_cons, List.sum_cons] at hsum
  have hunit : 2 ^ bound = 2 ^ (bound - e) * 2 ^ e := by rw [← pow_add, Nat.sub_add_cancel heb]
  obtain ⟨m, hm⟩ : 2 ^ (bound - e) ∣ (l.map (fun c => 2 ^ (bound - c))).sum := by
    refine List.dvd_sum fun x hx => ?_
    obtain ⟨c, hc, rfl⟩ := List.mem_map.1 hx
    exact Nat.pow_dvd_pow 2 (Nat.sub_le_sub_left (hl c hc) bound)
  have hpos := Nat.two_pow_pos (bound - d)
  have hlt : 1 + m < 2 ^ e := by
    refine Nat.lt_of_mul_lt_mul_left (a := 2 ^ (bound - e)) ?_
    rw [Nat.mul_add, Nat.mul_one, ← hm, ← hunit]
    omega
  obtain ⟨k, rfl⟩ : ∃ k, e = k + 1 := Nat.exists_eq_add_one.2 (Nat.pos_of_ne_zero fun h0 => by simp [h0] at hlt)
  refine ⟨k, rfl, List.forall_mem_cons.2 ⟨by omega, fun c hc => hbound c (by simp [hc])⟩, ?_⟩
  calc ((k :: l).map (fun c => 2 ^ (bound - c))).sum
      = 2 ^ (bound - (k + 1)) * (2 + m) := by rw [List.map_cons, List.sum_cons, hm, two_pow_sub heb, Nat.mul_add]
    _ ≤ 2 ^ (bound - (k + 1)) * 2 ^ (k + 1) := Nat.mul_le_mul_left _ (by omega)
    _ = 2 ^ bound := hunit.symm

/-- A least weight can be given the greatest depth by exchanging depths, at no more cost. -/
theorem exists_deepest {w : Nat} (d : Nat) {l : List (Nat × Nat)} (hw : ∀ e ∈ l, w ≤ e.1) :
    ∃ d' l', l'.map Prod.fst = l.map Prod.fst ∧ (d' :: l'.map Prod.snd).Perm (d :: l.map Prod.snd) ∧
      (∀ e ∈ l', e.2 ≤ d') ∧ w * d' + depthSum l' ≤ w * d + depthSum l := by
  induction l with
  | nil => exact ⟨d, [], rfl, .refl _, by simp, le_rfl⟩
  | cons e l ih =>
    obtain ⟨v, c⟩ := e
    have hv : w ≤ v := hw (v, c) (by simp)
    obtain ⟨d', l', hfst, hperm, hmax, hcost⟩ := ih fun e he => hw e (by simp [he])
    have hswap : (d' :: c :: l'.map Prod.snd).Perm (d :: c :: l.map Prod.snd) :=
      (List.Perm.swap _ _ _).trans ((hperm.cons c).trans (List.Perm.swap _ _ _))
    by_cases hc : c ≤ d'
    · refine ⟨d', (v, c) :: l', by simp [hfst], hswap, List.forall_mem_cons.2 ⟨hc, hmax⟩, ?_⟩
      simp only [depthSum_cons]
      omega
    · refine ⟨c, (v, d') :: l', by simp [hfst], (List.Perm.swap _ _ _).trans hswap,
        List.forall_mem_cons.2 ⟨(Nat.not_le.1 hc).le, fun e he => (hmax e he).trans (Nat.not_le.1 hc).le⟩, ?_⟩
      simp only [depthSum_cons]
      have hexchange : w * c + v * d' ≤ w * d' + v * c := by nlinarith
      omega

/-- A list of pairs gives each of the weights a depth, and the depths meet Kraft's inequality. -/
def Assigns (bound : Nat) (ws : List Nat) (l : List (Nat × Nat)) : Prop :=
  (l.map Prod.fst).Perm ws ∧ Kraft bound (l.map Prod.snd)

/-- The depths can be listed in any order of the weights. -/
theorem Assigns.exists_map_fst_eq {bound : Nat} {ws : List Nat} {l : List (Nat × Nat)} (h : Assigns bound ws l) :
    ∃ l', l'.map Prod.fst = ws ∧ Kraft bound (l'.map Prod.snd) ∧ depthSum l' = depthSum l := by
  obtain ⟨hws, hkraft⟩ := h
  have hrel : List.Forall₂ (fun w (e : Nat × Nat) => w = e.1) (l.map Prod.fst) l :=
    List.forall₂_map_left_iff.2 (List.forall₂_same.2 fun _ _ => rfl)
  obtain ⟨l', hl', hperm⟩ := List.perm_comp_forall₂ hws.symm hrel
  refine ⟨l', ?_, hkraft.perm (hperm.symm.map _), depthSum_perm hperm⟩
  rw [← List.forall₂_eq_eq_eq, List.forall₂_map_left_iff]
  exact hl'.flip.imp fun _ _ h => h.symm

/-- Two least weights can be merged into their sum, one level higher, which saves at least that sum: they can be
given the greatest depths, and then equal ones. -/
theorem Assigns.merge {bound a b : Nat} {ws : List Nat} {l : List (Nat × Nat)}
    (h : Assigns bound (a :: b :: ws) l) (ha : ∀ w ∈ b :: ws, a ≤ w) (hb : ∀ w ∈ ws, b ≤ w) :
    ∃ l', Assigns bound ((a + b) :: ws) l' ∧ depthSum l' + (a + b) ≤ depthSum l := by
  obtain ⟨l0, hfst, hkraft, hcost⟩ := h.exists_map_fst_eq
  obtain ⟨⟨x, da⟩, l1, rfl, hx, hfst1⟩ := List.map_eq_cons_iff.1 hfst
  obtain ⟨⟨y, db⟩, r, rfl, hy, rfl⟩ := List.map_eq_cons_iff.1 hfst1
  obtain rfl : a = x := hx.symm
  obtain rfl : b = y := hy.symm
  obtain ⟨d, l2, hfst2, hperm2, hmax2, hcost2⟩ := exists_deepest (w := a) da (l := (b, db) :: r)
    fun e he => ha e.1 (List.mem_map_of_mem (f := Prod.fst) he)
  obtain ⟨⟨z, db'⟩, r', rfl, hz, hr'⟩ := List.map_eq_cons_iff.1 hfst2
  obtain rfl : b = z := hz.symm
  obtain ⟨e, r2, hr2, hperm3, hmax3, hcost3⟩ := exists_deepest (w := b) db' (l := r')
    fun e he => hb e.1 (hr' ▸ List.mem_map_of_mem (f := Prod.fst) he)
  have hed : e ≤ d := by
    rcases List.mem_cons.1 (hperm3.mem_iff.1 List.mem_cons_self) with rfl | he
    · exact hmax2 _ List.mem_cons_self
    · obtain ⟨c, hc, rfl⟩ := List.mem_map.1 he
      exact hmax2 c (List.mem_cons_of_mem _ hc)
  have hkraft3 := (hkraft.perm hperm2.symm).perm (hperm3.symm.cons d)
  obtain ⟨k, rfl, hmerged⟩ := hkraft3.merge hed fun c hc => by
    obtain ⟨x, hx, rfl⟩ := List.mem_map.1 hc
    exact hmax3 x hx
  refine ⟨(a + b, k) :: r2, ⟨by simp [hr2, hr'], hmerged⟩, ?_⟩
  simp only [depthSum_cons] at hcost hcost2 hcost3 ⊢
  have hraise : a * (k + 1) ≤ a * d := Nat.mul_le_mul_left a hed
  rw [Nat.mul_add_one] at hraise hcost3
  rw [Nat.add_mul]
  omega

/-! ## The depths of a tree's leaves -/

/-- The leaves of a tree from left to right, each with its depth, the root being at the given depth. -/
def Tree.leafDepths : Tree → Nat → List ((Symbol × Nat) × Nat)
  | .missing, _ => []
  | .leaf sym w, depth => [((sym, w), depth)]
  | .node _ l r, depth => l.leafDepths (depth + 1) ++ r.leafDepths (depth + 1)

theorem Tree.map_fst_leafDepths (T : Tree) (depth : Nat) : (T.leafDepths depth).map Prod.fst = T.leaves := by
  induction T generalizing depth with
  | missing => rfl
  | leaf sym w => rfl
  | node w l r ihl ihr => simp [leafDepths, leaves, ihl, ihr]

/-- The depth of a leaf is the length of its path (R106). -/
theorem map_length_paths (T : Tree) (front : List Digit) :
    (paths T front).map (fun c => (c.1, c.2.length)) =
      (T.leafDepths front.length).map (fun e => (e.1.1, e.2)) := by
  induction T generalizing front with
  | missing => rfl
  | leaf sym w => rfl
  | node w l r ihl ihr => simp [paths, Tree.leafDepths, ihl, ihr]

/-- The weights of a tree's leaves with their depths. -/
def Tree.weightDepths (T : Tree) : List (Nat × Nat) := (T.leafDepths 0).map (fun e => (e.1.2, e.2))

theorem Tree.weightedDepth_eq_sum (T : Tree) (depth : Nat) :
    T.weightedDepth depth = ((T.leafDepths depth).map (fun e => e.1.2 * e.2)).sum := by
  induction T generalizing depth with
  | missing => rfl
  | leaf sym w => simp [weightedDepth, leafDepths]
  | node w l r ihl ihr => simp [weightedDepth, leafDepths, ihl, ihr]

theorem Tree.depthSum_weightDepths (T : Tree) : depthSum T.weightDepths = T.weightedDepth 0 := by
  simp [weightedDepth_eq_sum, weightDepths, depthSum, Function.comp_def]

/-- Below a node there is as much room, in units of 2^-bound, as its depth leaves. -/
theorem Tree.exists_height (T : Tree) : ∃ height, ∀ depth bound, depth + height ≤ bound →
    (∀ e ∈ T.leafDepths depth, e.2 ≤ bound) ∧
      ((T.leafDepths depth).map (fun e => 2 ^ (bound - e.2))).sum ≤ 2 ^ (bound - depth) := by
  induction T with
  | missing => exact ⟨0, fun depth bound _ => by simp [leafDepths]⟩
  | leaf sym w => exact ⟨0, fun depth bound h => by simpa [leafDepths] using h⟩
  | node w l r ihl ihr =>
    obtain ⟨hl, ihl⟩ := ihl
    obtain ⟨hr, ihr⟩ := ihr
    refine ⟨max hl hr + 1, fun depth bound h => ?_⟩
    obtain ⟨hlmax, hlsum⟩ := ihl (depth + 1) bound (by omega)
    obtain ⟨hrmax, hrsum⟩ := ihr (depth + 1) bound (by omega)
    refine ⟨fun e he => (List.mem_append.1 he).elim (hlmax e) (hrmax e), ?_⟩
    rw [leafDepths, List.map_append, List.sum_append, two_pow_sub (by omega)]
    omega

/-- The depths of a tree's leaves meet Kraft's inequality. -/
theorem Tree.exists_assigns (T : Tree) : ∃ bound, Assigns bound (T.leaves.map Prod.snd) T.weightDepths := by
  obtain ⟨height, h⟩ := T.exists_height
  obtain ⟨hmax, hsum⟩ := h 0 height (by omega)
  refine ⟨height, ?_, fun d hd => ?_, ?_⟩
  · rw [← T.map_fst_leafDepths 0, weightDepths]
    simp [Function.comp_def]
  · obtain ⟨x, hx, rfl⟩ := List.mem_map.1 hd
    obtain ⟨e, he, rfl⟩ := List.mem_map.1 hx
    exact hmax e he
  · simpa [weightDepths, Function.comp_def] using hsum

/-! ## The greedy forest is optimal (R160) -/

/-- A level more costs each leaf its weight once more. -/
theorem Tree.weightedDepth_add_one (T : Tree) (depth : Nat) :
    T.weightedDepth (depth + 1) = T.weightedDepth depth + totalCount T.leaves := by
  induction T generalizing depth with
  | missing => rfl
  | leaf sym w => simp [weightedDepth, leaves, totalCount, Nat.mul_add_one]
  | node w l r ihl ihr =>
    simp only [weightedDepth, leaves, ihl, ihr, totalCount_append]
    omega

/-- Whatever depths the entries' weights are given, the roots' weights have depths that cost less by at least the
depths inside the greedy forest. -/
theorem Greedy.exists_assigns {es : List (Symbol × Nat)} {ts : List Tree} (h : Greedy es ts) {bound : Nat}
    {l : List (Nat × Nat)} (hl : Assigns bound (es.map Prod.snd) l) :
    ∃ l', Assigns bound (ts.map Tree.weight) l' ∧
      depthSum l' + (ts.map (Tree.weightedDepth · 0)).sum ≤ depthSum l := by
  induction h with
  | leaves =>
    refine ⟨l, ?_, ?_⟩
    · rwa [List.map_map]
    · simp [Function.comp_def, Tree.weightedDepth]
  | @merge ts rest a b hgreedy hperm ha hb ih =>
    obtain ⟨l1, ⟨hws, hkraft⟩, hcost⟩ := ih
    obtain ⟨l2, hassigns, hsave⟩ := Assigns.merge (ws := rest.map Tree.weight) ⟨hws.trans (hperm.map _), hkraft⟩
      (by simpa using ha) (by simpa using hb)
    have haw := (hgreedy.conserves a (hperm.mem_iff.2 (by simp))).2
    have hbw := (hgreedy.conserves b (hperm.mem_iff.2 (by simp))).2
    refine ⟨l2, hassigns, ?_⟩
    rw [(hperm.map _).sum_eq] at hcost
    simp only [List.map_cons, List.sum_cons] at hcost ⊢
    rw [Tree.weightedDepth, Tree.weightedDepth_add_one, Tree.weightedDepth_add_one, ← haw, ← hbw]
    omega

/-- No depths that meet Kraft's inequality cost less than those of a greedy tree. -/
theorem Greedy.weightedDepth_le {es : List (Symbol × Nat)} {T : Tree} (h : Greedy es [T]) {bound : Nat}
    {l : List (Nat × Nat)} (hl : Assigns bound (es.map Prod.snd) l) : T.weightedDepth 0 ≤ depthSum l := by
  obtain ⟨l', -, hcost⟩ := h.exists_assigns hl
  simp only [List.map_cons, List.map_nil, List.sum_cons, List.sum_nil] at hcost
  omega

/-- Settles O56: the depths of any tree with the same leaves meet Kraft's inequality, and none that meet it cost
less than a greedy tree's; the one-leaf tree has its leaf at depth 1. -/
theorem buildIsOptimal : Obligations.BuildIsOptimal := by
  intro s t T h hok hT
  obtain ⟨T', hT', htable⟩ := execBuild_tree h hok
  obtain rfl := Option.some.inj (hT.symm.trans hT')
  rcases htable with ⟨e, he, rfl⟩ | ⟨h2, hgreedy⟩
  · refine ⟨fun h2 => by simp [he] at h2, fun e' he' => ?_⟩
    obtain rfl : e = e' := by simpa [he] using he'
    rfl
  · refine ⟨fun _ other hleaves => ?_, fun e he => by simp [he] at h2⟩
    obtain ⟨bound, hws, hkraft⟩ := other.exists_assigns
    exact other.depthSum_weightDepths ▸ hgreedy.weightedDepth_le ⟨hws.trans (hleaves.map _), hkraft⟩

/-! ## Heavier leaves are no deeper (R161) -/

/-- In a greedy tree a leaf of greater weight is no deeper: exchanged, the two depths would cost less. -/
theorem Greedy.depth_le {es : List (Symbol × Nat)} {T : Tree} (h : Greedy es [T]) {x y : Symbol}
    {m n d e : Nat} (hx : ((x, m), d) ∈ T.leafDepths 0) (hy : ((y, n), e) ∈ T.leafDepths 0) (hnm : n < m) :
    d ≤ e := by
  have hne : ((y, n), e) ≠ ((x, m), d) := fun heq => by
    simp only [Prod.mk.injEq] at heq
    omega
  have hperm := (List.perm_cons_erase hx).trans
    ((List.perm_cons_erase ((List.mem_erase_of_ne hne).2 hy)).cons _)
  have hpairs := hperm.map (fun e => (e.1.2, e.2))
  obtain ⟨bound, hws, hkraft⟩ := T.exists_assigns
  have hws' := hws.trans ((by simpa using h.leaves_perm : T.leaves.Perm es).map Prod.snd)
  rw [Tree.weightDepths] at hws' hkraft
  have hexchanged : Assigns bound (es.map Prod.snd) ((m, e) :: (n, d) :: _) :=
    ⟨(hpairs.map Prod.fst).symm.trans hws', (hkraft.perm (hpairs.map Prod.snd)).perm (.swap _ _ _)⟩
  have hcost := h.weightedDepth_le hexchanged
  rw [← T.depthSum_weightDepths, Tree.weightDepths, depthSum_perm hpairs] at hcost
  simp only [List.map_cons, depthSum_cons] at hcost
  by_contra hlt
  nlinarith

end Sys2Proof.Machine
end

section
/-! The code table after BUILD and GEN: the codes are the paths of the table's tree, so none is an initial part of
another (R156), exactly the present symbols have one (R162), and frequent symbols have short ones (R161). -/

namespace Sys2Proof.Machine

variable {s t u : State} {T : Tree} {x y : Symbol} {p q : List Digit}

/-! ## GEN after BUILD (R105, R109) -/

theorem execBuild_treeValid (h : exec .build s = .next t) (hok : t.status = .ok) : t.treeValid = true := by
  obtain ⟨-, -, rfl⟩ := execBuild_ok h hok
  rfl

/-- After a successful BUILD, GEN completes and writes the codes of the table's tree. -/
theorem exec_gen_after_build (h : exec .build s = .next t) (hok : t.status = .ok) :
    ∃ table T, exec .gen t = .next ((t.putCodes table).endWith .ok) ∧
      CodesMatch ((t.putCodes table).endWith .ok) ∧ treeOf t.tm t.root = some T ∧
      IsTreeOfTable (presentEntries s.ft) T ∧
      ∀ sym, ((t.putCodes table).endWith .ok).codeIn sym = codeOf T sym := by
  obtain ⟨T, hT, htable⟩ := execBuild_tree h hok
  obtain ⟨codes, hgen, hmatch⟩ := execGen_of_shape (execBuild_shape h hok).1 (execBuild_treeValid h hok)
  obtain ⟨T', hT', hcodes⟩ := hmatch.exists_codeIn
  obtain rfl : T = T' := Option.some.inj (hT.symm.trans hT')
  exact ⟨_, T, hgen, hmatch, hT, htable, hcodes⟩

/-- The codes that BUILD and GEN leave are the paths of the tree of the table. -/
theorem codeIn_after_build_gen (h : exec .build s = .next t) (hok : t.status = .ok)
    (hgen : exec .gen t = .next u) :
    ∃ T, IsTreeOfTable (presentEntries s.ft) T ∧ ∀ sym, u.codeIn sym = codeOf T sym := by
  obtain ⟨table, T, hgen', -, -, htable, hcodes⟩ := exec_gen_after_build h hok
  obtain rfl := Host.Outcome.next.inj (hgen.symm.trans hgen')
  exact ⟨T, htable, hcodes⟩

/-! ## No code is an initial part of another (R156) -/

/-- A code leads to a leaf, below which there is nothing, so a longer code with it as a part leads nowhere else. -/
theorem eq_of_code_prefix (hx : codeOf T x = some p) (hy : codeOf T y = some q) (hpq : p <+: q) : x = y := by
  obtain ⟨w, hleaf⟩ := follow_of_codeOf hx
  obtain ⟨w', hleaf'⟩ := follow_of_codeOf hy
  obtain ⟨rest, rfl⟩ := hpq
  rw [Tree.follow_append, hleaf] at hleaf'
  cases rest with
  | nil => exact (Tree.leaf.inj hleaf').1
  | cons d rest => exact absurd ((Tree.follow_missing rest).symm.trans hleaf') (by simp)

/-- Settles O37: the codes are paths to different leaves of one tree. -/
theorem codesAreFreeOfInitialParts : Obligations.CodesAreFreeOfInitialParts := by
  intro s t u h hok hgen _ x y p q hxy hx hy hpq
  obtain ⟨T, -, hcodes⟩ := codeIn_after_build_gen h hok hgen
  rw [hcodes] at hx hy
  exact hxy (eq_of_code_prefix hx hy hpq)

/-! ## The symbols that have a code (R162) -/

/-- The paths of a tree and its leaves have the same symbols. -/
theorem map_fst_generateCodes (T : Tree) : (generateCodes T).map Prod.fst = T.leaves.map Prod.fst := by
  have h := congrArg (List.map Prod.fst) (map_length_paths T [])
  rw [← T.map_fst_leafDepths 0, List.map_map]
  simpa [generateCodes, Function.comp_def] using h

/-- A symbol has a code exactly when it has a leaf. -/
theorem codeOf_isSome_iff : (codeOf T x).isSome = true ↔ x ∈ T.leaves.map Prod.fst := by
  rw [← map_fst_generateCodes, codeOf, List.lookup_isSome_iff]
  simp

/-- A symbol is present exactly when FT has a count for it (R98). -/
theorem mem_map_fst_presentEntries {ft : Store Nat} :
    x ∈ (presentEntries ft).map Prod.fst ↔ (ft.read x.toNat).isSome = true := by
  rw [Option.isSome_iff_exists, List.mem_map]
  constructor
  · rintro ⟨e, he, rfl⟩
    exact ⟨e.2, mem_presentEntries.1 he⟩
  · rintro ⟨count, hcount⟩
    exact ⟨(x, count), mem_presentEntries.2 hcount, rfl⟩

theorem IsTreeOfTable.codeOf_isSome_iff {ft : Store Nat} (h : IsTreeOfTable (presentEntries ft) T) :
    (codeOf T x).isSome = true ↔ (ft.read x.toNat).isSome = true := by
  rw [Machine.codeOf_isSome_iff, (h.leaves_perm.map Prod.fst).mem_iff, mem_map_fst_presentEntries]

/-- Settles O38: the tree's leaves are the present entries, and its table matches it. -/
theorem genCoversThePresentSymbols : Obligations.GenCoversThePresentSymbols := by
  intro s t h hok
  obtain ⟨table, T, hgen, hmatch, hT, htable, hcodes⟩ := exec_gen_after_build h hok
  obtain ⟨T', hT', hlength⟩ := hmatch
  obtain rfl : T = T' := Option.some.inj (hT.symm.trans hT')
  exact ⟨_, hgen, rfl, fun sym => ⟨by rw [hcodes, htable.codeOf_isSome_iff],
    fun p hp => (hlength sym).2 p ((hcodes sym).symm.trans hp)⟩⟩

/-! ## Frequent symbols have short codes (R161) -/

/-- A symbol's code is as long as its leaf is deep (R106). -/
theorem exists_mem_leafDepths (h : codeOf T x = some p) : ∃ w, ((x, w), p.length) ∈ T.leafDepths 0 := by
  have hmem := List.mem_map_of_mem (f := fun c => (c.1, c.2.length)) (mem_of_lookup h)
  rw [generateCodes, map_length_paths] at hmem
  obtain ⟨⟨⟨y, w⟩, d⟩, he, heq⟩ := List.mem_map.1 hmem
  simp only [Prod.mk.injEq] at heq
  obtain ⟨rfl, rfl⟩ := heq
  exact ⟨w, he⟩

/-- In the tree of a table a present symbol's code leads to the leaf of its count. -/
theorem IsTreeOfTable.mem_leafDepths {ft : Store Nat} {count : Nat} (h : IsTreeOfTable (presentEntries ft) T)
    (hread : ft.read x.toNat = some count) (hp : codeOf T x = some p) :
    ((x, count), p.length) ∈ T.leafDepths 0 := by
  obtain ⟨w, hmem⟩ := exists_mem_leafDepths hp
  have hleaf := List.mem_map_of_mem (f := Prod.fst) hmem
  rw [T.map_fst_leafDepths, h.leaves_perm.mem_iff, mem_presentEntries] at hleaf
  obtain rfl := Option.some.inj (hread.symm.trans hleaf)
  exact hmem

/-- Settles O57: with two symbols of different counts the tree is greedy, and there `Greedy.depth_le` holds. -/
theorem frequentSymbolsHaveShortCodes : Obligations.FrequentSymbolsHaveShortCodes := by
  intro s t u x y m n p q h hok hgen _ hx hy hmn hp hq
  obtain ⟨T, htable, hcodes⟩ := codeIn_after_build_gen h hok hgen
  rw [hcodes] at hp hq
  have hleafx := htable.mem_leafDepths hx hp
  have hleafy := htable.mem_leafDepths hy hq
  rcases htable with ⟨e, he, -⟩ | ⟨-, hgreedy⟩
  · have hxe : (x, m) ∈ presentEntries s.ft := mem_presentEntries.2 hx
    have hye : (y, n) ∈ presentEntries s.ft := mem_presentEntries.2 hy
    rw [he, List.mem_singleton] at hxe hye
    have hcount : m = n := congrArg Prod.snd (hxe.trans hye.symm)
    omega
  · exact hgreedy.depth_le hleafx hleafy hmn

/-! ## BUILD is a function of the table (R159) -/

/-- Settles O33: the present entries are those of equal readings, and decide with W_W between BUILD's answers. -/
theorem buildIsAFunctionOfTheTable : Obligations.BuildIsAFunctionOfTheTable := by
  intro s s' hwidth hft
  have hentries := presentEntries_congr hft
  simp only [exec_build, execBuild, buildTree, ← hentries, ← hwidth]
  split_ifs
  case pos | pos => exact ⟨_, _, rfl, rfl, rfl, fun hok => by cases hok⟩
  case neg => exact ⟨_, _, rfl, rfl, rfl, fun _ => ⟨rfl, rfl, fun _ => rfl⟩⟩

end Sys2Proof.Machine
end

section
/-! ENC that ends with status 0 (R163), the round trips through ENC and DEC (R155, R166), and the independence of
GEN, ENC and DEC of everything but their operands (R159). -/

namespace Sys2Proof.Machine

variable {s t u : State} {symbols : List Symbol} {out : List Digit}

/-! ## ENC with status 0 (R115, R163) -/

/-- The lookup loop ends only on symbols that all hold values and have codes, with the codes concatenated. -/
theorem encodeSlots_ok {slots : List (Option Symbol)} {i : Nat} (h : encodeSlots s.ct i slots = .ok out) :
    ∃ symbols, slots = symbols.map some ∧ encodeSequence s.codeIn symbols = some out := by
  induction slots generalizing i out with
  | nil =>
    cases h
    exact ⟨[], rfl, rfl⟩
  | cons slot rest ih =>
    cases slot with
    | none => cases h
    | some sym =>
      rw [encodeSlots] at h
      split at h
      · cases h
      · rename_i entry hread
        split at h
        · cases h
        · rename_i tail htail
          cases h
          obtain ⟨symbols, rfl, henc⟩ := ih htail
          exact ⟨sym :: symbols, rfl, encodeSequence_cons_eq_some.2
            ⟨entry.digits, tail, State.codeIn_eq_some.2 ⟨entry, hread, rfl⟩, henc, rfl⟩⟩

/-- The lookup loop raises no status but LookupError (R116). -/
theorem encodeSlots_raise {ct : Store CodeEntry} {slots : List (Option Symbol)} {i : Nat} {e : Status}
    (h : encodeSlots ct i slots = .error (.raise e)) : e = .lookupError := by
  induction slots generalizing i with
  | nil => cases h
  | cons slot rest ih =>
    cases slot with
    | none => cases h
    | some sym =>
      rw [encodeSlots] at h
      split at h
      · cases h
        rfl
      · split at h
        · rename_i hrest
          cases h
          exact ih hrest
        · cases h

/-- An ENC that ends with status 0 has put the concatenation of the codes of SI, which fits. -/
theorem execEnc_ok (h : exec .enc s = .next t) (hok : t.status = .ok) :
    ∃ symbols out, HoldsSymbols s symbols ∧ encodeSequence s.codeIn symbols = some out ∧
      out.length ≤ s.params.bitCapacity ∧ t = (s.putBits out).endWith .ok := by
  rw [exec_enc] at h
  rcases execEnc_next h with ⟨-, rfl⟩ | ⟨-, e, he, rfl⟩ | ⟨-, _, -, -, rfl⟩ | ⟨-, out, hout, hle, rfl⟩
  · cases hok
  · obtain rfl := encodeSlots_raise he
    cases hok
  · cases hok
  · obtain ⟨symbols, hsi, henc⟩ := encodeSlots_ok hout
    exact ⟨symbols, out, hsi, henc, hle, rfl⟩

theorem encodeSequence_length {codes : Symbol → Option (List Digit)}
    (h : encodeSequence codes symbols = some out) :
    out.length = (symbols.map (fun sym => ((codes sym).getD []).length)).sum := by
  induction symbols generalizing out with
  | nil =>
    cases h
    rfl
  | cons sym rest ih =>
    obtain ⟨p, tail, hp, htail, rfl⟩ := encodeSequence_cons_eq_some.1 h
    simp [hp, ih htail]

/-- Settles O44: BS_LEN holds the length of the concatenation, which the capacity bounds. -/
theorem bitstreamLengthIsTheSum : Obligations.BitstreamLengthIsTheSum := by
  intro s t hp h hok
  obtain ⟨symbols, out, hsi, henc, hle, rfl⟩ := execEnc_ok h hok
  have hlen : out.length < 2 ^ 32 := hle.trans_lt (Params.capacities_lt hp).2
  exact ⟨symbols, hsi, (toNat_ofNat_eq hlen).trans (encodeSequence_length henc)⟩

/-! ## Decoding inverts encoding (R166) -/

/-- A state with a valid code table of its valid tree: what ENC and DEC need of each other. BUILD and GEN make one
from any state, and every state that meets the invariants and has a code table is one. -/
structure Coded (s : State) : Prop where
  params : s.params.wellFormed = true
  treeValid : s.treeValid = true
  ctValid : s.ctValid = true
  shape : TreeShape s.params s.tm s.root s.nnodes
  codes : CodesMatch s

theorem Inv.coded (hs : Inv s) (hv : s.ctValid = true) : Coded s where
  params := hs.params
  treeValid := hs.flags hv
  ctValid := hv
  shape := hs.tree (hs.flags hv)
  codes := hs.codes hv

/-- The bitstream is no part of what makes a state coded. -/
theorem Coded.putBits (hs : Coded s) (out : List Digit) : Coded ((s.putBits out).endWith .ok) := { hs with }

/-- DEC of a concatenation of codes puts the sequence, if it fits (R125). -/
theorem Coded.exec_dec (hs : Coded s) (henc : encodeSequence s.codeIn symbols = some out)
    (hbs : HoldsDigits s out) (hle : symbols.length ≤ s.params.symbolCapacity) :
    exec .dec s = .next ((s.putOutput symbols).endWith .ok) := by
  obtain ⟨T, hT, hcodes⟩ := hs.codes.exists_codeIn
  obtain ⟨w, l, r, rfl⟩ := hs.shape.holdsTree_root (holdsTree_of_treeOf hT)
  rw [show s.codeIn = codeOf (.node w l r) from funext hcodes] at henc
  have hdec : decodeFrom (.node w l r) none out = .ok symbols := by
    simpa [decodeFrom, Except.map] using decodeFrom_append_encodeSequence (rest := []) henc
  have hloop : decodeSlots s.tm s.root 0 s.root s.bitSlots = .ok symbols := by
    rw [show s.bitSlots = out.map some from hbs,
      SameCursor.atRoot.decodeSlots_eq hs.shape (holdsTree_of_treeOf hT) 0 out, hdec]
    rfl
  simp [execDec, decodeInput, hs.treeValid, hloop, Nat.not_lt.2 hle]

theorem HoldsSymbols.length_eq (h : HoldsSymbols s symbols) : symbols.length = s.siLen.toNat := by
  simpa [State.symbolSlots] using (congrArg List.length h).symm

/-- ENC and then DEC bring the sequence of SI to SO, if bitstream and sequence fit. -/
theorem Coded.exec_enc_dec (hs : Coded s) (hsi : HoldsSymbols s symbols)
    (henc : encodeSequence s.codeIn symbols = some out) (hout : out.length ≤ s.params.bitCapacity)
    (hle : symbols.length ≤ s.params.symbolCapacity) :
    ∃ t u, exec .enc s = .next t ∧ t.status = .ok ∧ exec .dec t = .next u ∧ u.status = .ok ∧
      u.siLen = s.siLen ∧ u.si = s.si ∧ u.soLen = s.siLen ∧ HoldsOutput u symbols := by
  obtain ⟨hsymCap, hbitCap⟩ := Params.capacities_lt hs.params
  have hlen : symbols.length < 2 ^ 32 := hle.trans_lt hsymCap
  refine ⟨(s.putBits out).endWith .ok, _, ?enc, rfl,
    (hs.putBits out).exec_dec henc (holdsDigits_putBits s (hout.trans_lt hbitCap)) hle, rfl, rfl, rfl, ?length,
    holdsOutput_putOutput ((s.putBits out).endWith .ok) hlen⟩
  case enc => rw [exec_enc_of_encodeSequence hs.ctValid hsi henc, if_neg (Nat.not_lt.2 hout)]
  case length => exact BitVec.eq_of_toNat_eq ((toNat_ofNat_eq hlen).trans hsi.length_eq)

/-- Settles O54: SI_LEN is within the capacity, so `Coded.exec_enc_dec` applies. -/
theorem decodingInvertsEncoding : Obligations.DecodingInvertsEncoding := by
  intro s symbols out hs hv hsi henc hout
  obtain ⟨t, u, htenc, htok, hudec, huok, -, -, hlen, houtput⟩ :=
    (hs.coded hv).exec_enc_dec hsi henc hout (hsi.length_eq ▸ hs.lengths.1)
  exact ⟨t, u, htenc, htok, hudec, huok, hlen, houtput⟩

/-! ## The frequency table of a sequence (R170) -/

/-- A store made index by index holds at each index what was put there. -/
theorem Store.read_filterMap_range {α : Type} (f : Nat → Option α) (n i : Nat) :
    Store.read ((List.range n).filterMap (fun k => (f k).map (Prod.mk k))) i = if i < n then f i else none := by
  induction n with
  | zero => simp
  | succ n ih =>
    rw [List.range_succ, List.filterMap_append, Store.read_append, ih]
    rcases Nat.lt_trichotomy i n with hi | rfl | hi
    · cases hf : f n <;> simp [hf, hi, Nat.lt_succ_of_lt hi, Store.read_cons, hi.ne']
    · cases hf : f i <;> simp [hf, Store.read_cons]
    · cases hf : f n <;> simp [hf, hi.not_gt, Nat.not_lt.2 (Nat.succ_le_of_lt hi), Store.read_cons, hi.ne]

/-- The table of a sequence counts each symbol that occurs (R170). -/
theorem read_frequencyTable (symbols : List Symbol) (sym : Symbol) :
    (frequencyTable symbols).read sym.toNat = if sym ∈ symbols then some (symbols.count sym) else none := by
  have hform : frequencyTable symbols = (List.range Config.symbolCount).filterMap (fun k =>
      (if symbols.count (BitVec.ofNat 8 k) = 0 then none else some (symbols.count (BitVec.ofNat 8 k))).map
        (Prod.mk k)) := by
    refine List.filterMap_congr fun k _ => ?_
    by_cases h0 : symbols.count (BitVec.ofNat 8 k) = 0 <;> simp [h0]
  rw [hform, Store.read_filterMap_range, if_pos (show sym.toNat < Config.symbolCount from sym.isLt)]
  by_cases hmem : sym ∈ symbols <;> simp [hmem, List.count_eq_zero]

/-- The counts of a sequence's table add up to its length (R170). -/
theorem totalCount_frequencyTable (symbols : List Symbol) :
    totalCount (presentEntries (frequencyTable symbols)) = symbols.length := by
  have hsorted : (presentEntries (frequencyTable symbols)).Nodup :=
    (presentEntries_sorted _).imp fun hlt heq => by simp [heq] at hlt
  have hperm : (presentEntries (frequencyTable symbols)).Perm
      (symbols.dedup.map (fun sym => (sym, symbols.count sym))) := by
    refine (List.perm_ext_iff_of_nodup hsorted
      (symbols.nodup_dedup.map fun _ _ h => (Prod.mk.inj h).1)).2 ?_
    rintro ⟨sym, count⟩
    rw [mem_presentEntries, read_frequencyTable]
    by_cases hmem : sym ∈ symbols <;> simp [hmem]
  rw [totalCount_perm hperm, totalCount, List.map_map]
  exact symbols.sum_map_count_dedup_eq_length

/-! ## The round trip (R155) -/

theorem exists_encodeSequence {codes : Symbol → Option (List Digit)}
    (h : ∀ sym ∈ symbols, (codes sym).isSome = true) : ∃ out, encodeSequence codes symbols = some out := by
  induction symbols with
  | nil => exact ⟨[], rfl⟩
  | cons sym rest ih =>
    obtain ⟨p, hp⟩ := Option.isSome_iff_exists.1 (h sym (by simp))
    obtain ⟨tail, htail⟩ := ih fun x hx => h x (by simp [hx])
    exact ⟨p ++ tail, encodeSequence_cons_eq_some.2 ⟨p, tail, hp, htail, rfl⟩⟩

/-- A successful BUILD and the GEN after it make a coded state, and leave the encoder's input. -/
theorem coded_of_build_gen (hp : s.params.wellFormed = true) (h : exec .build s = .next t) (hok : t.status = .ok)
    (hgen : exec .gen t = .next u) : Coded u ∧ u.params = s.params ∧ u.si = s.si ∧ u.siLen = s.siLen := by
  obtain ⟨table, -, hgen', hmatch, -⟩ := exec_gen_after_build h hok
  obtain rfl := Host.Outcome.next.inj (hgen.symm.trans hgen')
  have hparams : t.params = s.params := exec_params h
  have htree := execBuild_treeValid h hok
  have hshape := (execBuild_shape h hok).1
  obtain ⟨hframe, -⟩ := buildFrame s t h
  have hsi : t.si = s.si := by rw [hframe]
  have hsiLen : t.siLen = s.siLen := by rw [hframe]
  exact ⟨⟨hparams ▸ hp, htree, rfl, hshape, hmatch⟩, hparams, hsi, hsiLen⟩

/-- Settles O55: the table of the sequence has its symbols and a total that fits, so BUILD and GEN make a coded
state in which each of them has a code. -/
theorem roundTrip : Obligations.RoundTrip := by
  intro s symbols hp hne hcap htotal hft hsi
  have hentries := presentEntries_congr hft
  have hpresent : ∀ sym ∈ symbols, (s.ft.read sym.toNat).isSome = true := fun sym hsym => by
    rw [hft _ sym.isLt, read_frequencyTable, if_pos hsym]
    rfl
  obtain ⟨sym, hsym⟩ := List.exists_mem_of_ne_nil symbols hne
  have hnonempty : presentEntries s.ft ≠ [] := by
    have hmem := mem_map_fst_presentEntries.2 (hpresent sym hsym)
    rintro h0
    simp [h0] at hmem
  have hbuild := execBuild_of_fits hnonempty (by rwa [hentries, totalCount_frequencyTable])
  obtain ⟨u, hgen, hgenok, hcovers⟩ := genCoversThePresentSymbols s _ hbuild rfl
  obtain ⟨hcoded, hparams, hsiEq, hsiLen⟩ := coded_of_build_gen hp hbuild rfl hgen
  obtain ⟨out, henc⟩ := exists_encodeSequence fun x hx => (hcovers x).1.2 (hpresent x hx)
  refine ⟨_, u, out, hbuild, rfl, hgen, hgenok, henc, fun hout => ?_⟩
  have hsi' : HoldsSymbols u symbols := by rwa [HoldsSymbols, State.symbolSlots, hsiEq, hsiLen]
  obtain ⟨v, w, hv, hvok, hw, hwok, hwlen, hwsi, hsolen, houtput⟩ :=
    hcoded.exec_enc_dec hsi' henc (hparams ▸ hout) (hparams ▸ hcap)
  refine ⟨v, w, hv, hvok, hw, hwok, hsolen.trans hwlen.symm, fun i hi => ?_⟩
  have hslots : w.so.slots w.siLen.toNat = w.si.slots w.siLen.toNat := by
    rw [hwsi, hwlen, ← hsolen]
    exact houtput.trans (hsolen ▸ hsi'.symm)
  have hat := congrArg (·[i]?) hslots
  simpa only [Store.slots_getElem?, if_pos hi, Option.some.injEq] using hat

/-! ## Functions of the operands (R159) -/

/-- Two computations stop for the same reason, or end in states that look the same through the view. -/
def AgreeOn {β : Type} (view : State → β) : Except Abort State → Except Abort State → Prop
  | .ok u, .ok u' => view (u.endWith .ok) = view (u'.endWith .ok)
  | .error a, .error a' => a = a'
  | _, _ => False

/-- Where the computations of two commands agree, their next states look the same, if the states with the destination
emptied do. -/
theorem finishCommand_view {β : Type} {view : State → β} {emptied emptied' t t' : State}
    {r r' : Except Abort State} (hr : AgreeOn view r r')
    (h : finishCommand emptied r = .next t) (h' : finishCommand emptied' r' = .next t')
    (hemptied : ∀ e, view (emptied.endWith e) = view (emptied'.endWith e)) : view t = view t' := by
  rcases finishCommand_next h with ⟨v, rfl, rfl⟩ | ⟨e, rfl, rfl⟩ <;>
    rcases finishCommand_next h' with ⟨v', rfl, rfl⟩ | ⟨e', rfl, rfl⟩
  · exact hr
  · exact hr.elim
  · exact hr.elim
  · cases hr
    exact hemptied e

/-- Below the length of the sequence written, a store reads the same whatever it held before. -/
theorem Store.slots_overlay_congr {α : Type} (st st' : Store α) {l : List α} {n : Nat} (hn : n ≤ l.length) :
    (st.overlay l).slots n = (st'.overlay l).slots n := by
  refine List.map_congr_left fun i hi => ?_
  have hlt : i < l.length := (List.mem_range.1 hi).trans_le hn
  rw [Store.read_overlay, Store.read_overlay, if_pos hlt, if_pos hlt]

/-- What GEN leaves of itself. -/
def genView (t : State) : Status × Bool × Store CodeEntry := (t.status, t.ctValid, t.ct)

/-- What ENC leaves of itself. -/
def encView (t : State) : Status × Length × Store Digit := (t.status, t.bsLen, t.bs)

/-- What DEC leaves of itself: of SO the output only. -/
def decView (t : State) : Status × Length × List (Option Symbol) :=
  (t.status, t.soLen, t.so.slots t.soLen.toNat)

theorem generateTable_agree {s' : State} (hv : s.treeValid = s'.treeValid) (htm : s.tm = s'.tm)
    (hroot : s.root = s'.root) : AgreeOn genView (generateTable s) (generateTable s') := by
  simp only [generateTable, ← hv, ← htm, ← hroot]
  split_ifs
  · rfl
  · cases walk s.tm (Config.codeCapacity + 1) s.root [] <;> rfl

theorem encodeInput_agree {s' : State} (hv : s.ctValid = s'.ctValid) (hct : s.ct = s'.ct)
    (hsi : s.symbolSlots = s'.symbolSlots) (hcap : s.params.bitCapacity = s'.params.bitCapacity) :
    AgreeOn encView (encodeInput s) (encodeInput s') := by
  simp only [encodeInput, ← hv, ← hct, ← hsi, ← hcap]
  split_ifs
  · rfl
  · cases encodeSlots s.ct 0 s.symbolSlots with
    | error e => rfl
    | ok out => by_cases hc : out.length > s.params.bitCapacity <;> simp [hc, AgreeOn, encView]

theorem decodeInput_agree {s' : State} (hv : s.treeValid = s'.treeValid) (htm : s.tm = s'.tm)
    (hroot : s.root = s'.root) (hbs : s.bitSlots = s'.bitSlots)
    (hcap : s.params.symbolCapacity = s'.params.symbolCapacity) :
    AgreeOn decView (decodeInput s) (decodeInput s') := by
  simp only [decodeInput, ← hv, ← htm, ← hroot, ← hbs, ← hcap]
  split_ifs
  · rfl
  · cases decodeSlots s.tm s.root 0 s.root s.bitSlots with
    | error e => rfl
    | ok out =>
      by_cases hc : out.length > s.params.symbolCapacity
      · simp [hc, AgreeOn]
      · simp only [if_neg hc]
        exact congrArg (fun slots => (Status.ok, BitVec.ofNat 32 out.length, slots))
          (Store.slots_overlay_congr s.so s'.so (toNat_ofNat_le le_rfl))

/-- Settles O52: each command's computation agrees with that on equal operands, and so does its end. -/
theorem commandsDependOnTheirOperands : Obligations.CommandsDependOnTheirOperands := by
  intro s s' t t'
  refine ⟨fun hv htm hroot h h' => ?gen, fun hv hct hsi hcap h h' => ?enc, fun hv htm hroot hbs hcap h h' => ?dec⟩
  case gen =>
    have hview := finishCommand_view (generateTable_agree hv htm hroot) h h' fun _ => rfl
    simpa [genView] using hview
  case enc =>
    have hview := finishCommand_view (encodeInput_agree hv hct hsi hcap) h h' fun _ => rfl
    simpa [encView] using hview
  case dec =>
    have hview := finishCommand_view (decodeInput_agree hv htm hroot hbs hcap) h h' fun _ => rfl
    simpa [decView] using hview

end Sys2Proof.Machine
end

section
/-! # The frequency table counts occurrences (R170) -/

namespace Sys2Proof.Machine

@[simp] theorem frequencyTable_nil : frequencyTable [] = [] := by simp [frequencyTable]

/-- Settles O60: its entries are those of `read_frequencyTable`, and `totalCount_frequencyTable` adds them up. -/
theorem countsAreOccurrences : Obligations.CountsAreOccurrences := fun symbols =>
  ⟨read_frequencyTable symbols, totalCount_frequencyTable symbols, frequencyTable_nil⟩

end Sys2Proof.Machine
end

section
/-! The statuses of the commands (60_exceptions R175): which a command can end with, and exactly when it is
SequenceError (R181), InvalidInput (R176) or LookupError (R177). -/

namespace Sys2Proof.Machine

variable {s t : State} {i : Instr}

/-! ## What the decoder's loop raises (R127, R128) -/

/-- A digit raises nothing but NullTraversal. -/
theorem decodeStep_raise {tm : Store TreeNode} {root cur : NodeIndex} {d : Digit} {e : Status}
    (h : decodeStep tm root cur d = .error (.raise e)) : e = .nullTraversal := by
  cases hnode : tm.read cur.toNat with
  | none => simp [decodeStep, hnode] at h
  | some node =>
    by_cases hd : node.child d = NIL
    · rw [decodeStep_nil hnode hd] at h
      cases h
      rfl
    · cases hc : tm.read (node.child d).toNat with
      | none =>
        rw [TreeNode.child] at hd hc
        simp [decodeStep, hnode, hd, hc] at h
      | some c =>
        cases hkind : c.kind with
        | leaf => cases (decodeStep_leaf hnode hd hc hkind).symm.trans h
        | internal => cases (decodeStep_internal hnode hd hc hkind).symm.trans h

/-- The loop raises what a digit raises, or MalformedStream at its end. -/
theorem decodeSlots_raise {tm : Store TreeNode} {root cur : NodeIndex} {slots : List (Option Digit)} {j : Nat}
    {e : Status} (h : decodeSlots tm root j cur slots = .error (.raise e)) :
    e = .nullTraversal ∨ e = .malformedStream := by
  induction slots generalizing j cur with
  | nil =>
    rw [decodeSlots] at h
    split at h <;> cases h
    exact .inr rfl
  | cons slot rest ih =>
    cases slot with
    | none => cases h
    | some d =>
      rw [decodeSlots] at h
      split at h
      · rename_i hstep
        cases h
        exact .inl (decodeStep_raise hstep)
      · split at h
        · rename_i hrest
          cases h
          exact ih hrest
        · cases h

/-! ## Without the tree or the code table (R181, R185) -/

theorem exec_gen_without_tree (ht : s.treeValid = false) :
    exec .gen s = .next (s.dropCodes.endWith .sequenceError) := by
  simp [execGen, generateTable, ht]

theorem exec_dec_without_tree (ht : s.treeValid = false) :
    exec .dec s = .next (s.dropOutput.endWith .sequenceError) := by
  simp [execDec, decodeInput, ht]

theorem exec_enc_without_codes (hv : s.ctValid = false) :
    exec .enc s = .next (s.dropBits.endWith .sequenceError) := by
  simp [execEnc, encodeInput, hv]

/-! ## With them (R175) -/

theorem exec_gen_status_of_tree (h : exec .gen s = .next t) (ht : s.treeValid = true) : t.status = .ok := by
  rcases execGen_next h with ⟨hf, -⟩ | ⟨-, codes, -, rfl⟩ | ⟨-, e, he, -⟩
  · cases hf.symm.trans ht
  · rfl
  · exact absurd he (walk_ne_raise _ _ _ _ _)

theorem exec_enc_status_of_codes (h : exec .enc s = .next t) (hv : s.ctValid = true) :
    t.status ∈ [Status.ok, .lookupError, .capacityExceeded] := by
  rcases execEnc_next h with ⟨hf, -⟩ | ⟨-, e, he, rfl⟩ | ⟨-, out, -, -, rfl⟩ | ⟨-, out, -, -, rfl⟩
  · cases hf.symm.trans hv
  · simp [encodeSlots_raise he]
  · simp
  · simp

theorem exec_dec_status_of_tree (h : exec .dec s = .next t) (ht : s.treeValid = true) :
    t.status ∈ [Status.ok, .malformedStream, .nullTraversal, .capacityExceeded] := by
  rcases execDec_next h with ⟨hf, -⟩ | ⟨-, e, he, rfl⟩ | ⟨-, out, -, -, rfl⟩ | ⟨-, out, -, -, rfl⟩
  · cases hf.symm.trans ht
  · rcases decodeSlots_raise he with rfl | rfl <;> simp
  · simp
  · simp

/-- Settles O22: SequenceError comes without the tree or the code table, the other statuses of the row with it. -/
theorem statusesOfEachCommand : Obligations.StatusesOfEachCommand := by
  intro s t i h
  cases i with
  | build =>
    rw [exec_build] at h
    rcases execBuild_cases s with ⟨-, heq⟩ | ⟨-, -, heq⟩ | ⟨-, -, heq⟩ <;> cases heq.symm.trans h <;> simp
  | gen =>
    cases ht : s.treeValid with
    | false => cases (exec_gen_without_tree ht).symm.trans h; simp
    | true => simp [exec_gen_status_of_tree h ht]
  | enc =>
    cases hv : s.ctValid with
    | false => cases (exec_enc_without_codes hv).symm.trans h; simp
    | true => exact List.mem_append_left [Status.sequenceError] (exec_enc_status_of_codes h hv)
  | dec =>
    cases ht : s.treeValid with
    | false => cases (exec_dec_without_tree ht).symm.trans h; simp
    | true => exact List.mem_append_left [Status.sequenceError] (exec_dec_status_of_tree h ht)
  | endSession => cases h; simp

/-! ## SequenceError (R181) -/

/-- A command that ends with SequenceError lacks what it needs. -/
theorem missing_of_sequenceError (h : exec i s = .next t) (hst : t.status = .sequenceError) :
    ((i = .gen ∨ i = .dec) ∧ s.treeValid = false) ∨ (i = .enc ∧ s.ctValid = false) := by
  have hrow := statusesOfEachCommand s t i h
  rw [hst] at hrow
  cases i with
  | build => simp at hrow
  | gen =>
    refine .inl ⟨.inl rfl, Bool.eq_false_iff.2 fun ht => ?_⟩
    cases hst.symm.trans (exec_gen_status_of_tree h ht)
  | enc =>
    refine .inr ⟨rfl, Bool.eq_false_iff.2 fun hv => ?_⟩
    simpa [hst] using exec_enc_status_of_codes h hv
  | dec =>
    refine .inl ⟨.inr rfl, Bool.eq_false_iff.2 fun ht => ?_⟩
    simpa [hst] using exec_dec_status_of_tree h ht
  | endSession => simp at hrow

/-- Settles O23: what is missing is missed before any data is read, and its absence is the status' one cause. -/
theorem sequenceErrorExactly : Obligations.SequenceErrorExactly := by
  refine fun s => ⟨fun i => ⟨fun ⟨t, h, hst⟩ => missing_of_sequenceError h hst, ?raised⟩,
    fun ht => ⟨exec_gen_without_tree ht, exec_dec_without_tree ht⟩, exec_enc_without_codes⟩
  case raised =>
    rintro (⟨rfl | rfl, ht⟩ | ⟨rfl, hv⟩)
    · exact ⟨_, exec_gen_without_tree ht, rfl⟩
    · exact ⟨_, exec_dec_without_tree ht, rfl⟩
    · exact ⟨_, exec_enc_without_codes hv, rfl⟩

/-! ## InvalidInput (R96, R176) -/

/-- The scan of FT finds nothing exactly in the empty table. -/
theorem presentEntries_eq_nil_iff : presentEntries s.ft = [] ↔ EmptyTable s := by
  simp [presentEntries, EmptyTable, Config.symbolCount]

theorem exec_build_of_emptyTable (h : EmptyTable s) :
    exec .build s = .next (s.dropCodes.dropTree.endWith .invalidInput) := by
  rcases execBuild_cases s with ⟨-, heq⟩ | ⟨hne, -⟩ | ⟨hne, -⟩
  · exact heq
  · exact absurd (presentEntries_eq_nil_iff.2 h) hne
  · exact absurd (presentEntries_eq_nil_iff.2 h) hne

/-- A command that ends with InvalidInput is BUILD, and found no present entry. -/
theorem emptyTable_of_invalidInput (h : exec i s = .next t) (hst : t.status = .invalidInput) :
    i = .build ∧ EmptyTable s := by
  have hrow := statusesOfEachCommand s t i h
  rw [hst] at hrow
  obtain rfl : i = .build := by cases i <;> simp at hrow ⊢
  rw [exec_build] at h
  refine ⟨rfl, ?_⟩
  rcases execBuild_cases s with ⟨h0, -⟩ | ⟨-, -, heq⟩ | ⟨-, -, heq⟩
  · exact presentEntries_eq_nil_iff.1 h0
  · cases heq.symm.trans h
    cases hst
  · cases heq.symm.trans h
    cases hst

/-- Settles O24: the scan of an empty table finds no entry, and BUILD drops the tree and the code table. -/
theorem invalidInputExactly : Obligations.InvalidInputExactly := by
  refine fun s => ⟨fun i => ⟨fun ⟨t, h, hst⟩ => emptyTable_of_invalidInput h hst, ?raised⟩, fun h => ?state⟩
  case raised =>
    rintro ⟨rfl, h⟩
    exact ⟨_, exec_build_of_emptyTable h, rfl⟩
  case state =>
    exact ⟨_, exec_build_of_emptyTable h, rfl, noTree_dropTree _, noCodes_of_dropped rfl rfl, rfl⟩

/-! ## LookupError (R116, R177) -/

theorem State.codeIn_eq_none {sym : Symbol} : s.codeIn sym = none ↔ s.ct.read sym.toNat = none :=
  Option.map_eq_none_iff

theorem State.mem_symbolSlots {slot : Option Symbol} :
    slot ∈ s.symbolSlots ↔ ∃ k, k < s.siLen.toNat ∧ s.si.read k = slot := by
  simp [State.symbolSlots, Store.slots]

/-- The lookup loop raises a status at a symbol that has no code. -/
theorem exists_uncoded_of_encodeSlots_raise {slots : List (Option Symbol)} {j : Nat} {e : Status}
    (h : encodeSlots s.ct j slots = .error (.raise e)) : ∃ sym, some sym ∈ slots ∧ s.codeIn sym = none := by
  induction slots generalizing j with
  | nil => cases h
  | cons slot rest ih =>
    cases slot with
    | none => cases h
    | some sym =>
      rw [encodeSlots] at h
      split at h
      · rename_i hread
        exact ⟨sym, List.mem_cons_self, State.codeIn_eq_none.2 hread⟩
      · split at h
        · rename_i hrest
          cases h
          obtain ⟨sym', hmem, hnone⟩ := ih hrest
          exact ⟨sym', List.mem_cons_of_mem _ hmem, hnone⟩
        · cases h

/-- Wherever in a sequence of symbols one has no code, the lookup loop ends with LookupError. -/
theorem encodeSlots_of_uncoded {symbols : List Symbol} (j : Nat) (h : ∃ sym ∈ symbols, s.codeIn sym = none) :
    encodeSlots s.ct j (symbols.map some) = .error (.raise .lookupError) := by
  induction symbols generalizing j with
  | nil => simp at h
  | cons sym rest ih =>
    cases hread : s.ct.read sym.toNat with
    | none => simp [encodeSlots, hread]
    | some entry =>
      have hrest : ∃ x ∈ rest, s.codeIn x = none := by
        simpa [State.codeIn_eq_none, hread] using h
      simp [encodeSlots, hread, ih (j + 1) hrest]

/-- An ENC that ends with LookupError has a code table, and reads a symbol of SI without a code. -/
theorem exists_uncoded_of_lookupError (h : exec .enc s = .next t) (hst : t.status = .lookupError) :
    s.ctValid = true ∧ ∃ k sym, k < s.siLen.toNat ∧ s.si.read k = some sym ∧ s.codeIn sym = none := by
  rcases execEnc_next h with ⟨-, rfl⟩ | ⟨hv, e, he, rfl⟩ | ⟨-, out, -, -, rfl⟩ | ⟨-, out, -, -, rfl⟩
  · cases hst
  · obtain ⟨sym, hmem, hnone⟩ := exists_uncoded_of_encodeSlots_raise he
    obtain ⟨k, hk, hread⟩ := State.mem_symbolSlots.1 hmem
    exact ⟨hv, k, sym, hk, hread, hnone⟩
  · cases hst
  · cases hst

/-- Settles O41: only ENC has the status in its row, and its lookup loop raises it at symbols without a code. -/
theorem lookupErrorExactly : Obligations.LookupErrorExactly := by
  refine fun s => ⟨fun i t h hst => ?only, fun symbols hv hsi huncoded => ?raised⟩
  case only =>
    have hrow := statusesOfEachCommand s t i h
    rw [hst] at hrow
    obtain rfl : i = .enc := by cases i <;> simp at hrow ⊢
    exact ⟨rfl, exists_uncoded_of_lookupError h hst⟩
  case raised =>
    have hloop : encodeSlots s.ct 0 s.symbolSlots = .error (.raise .lookupError) :=
      hsi ▸ encodeSlots_of_uncoded 0 huncoded
    simp [execEnc, encodeInput, hv, hloop, State.dropBits, State.endWith]

end Sys2Proof.Machine
end

section
/-! Reset (70_reset_and_hazards R195, R196), and the reads of elements that hold no value (R206): where ENC and DEC
are refused, and that in a state with the invariants nothing else stops a command (R210). -/

namespace Sys2Proof.Machine

/-! ## Reset (R195, R196) -/

/-- Settles O15: the state after the event is that of `State.applyReset`, which holds no tree. -/
theorem resetEventFromAnyState : Obligations.ResetEventFromAnyState :=
  fun s _ h => ⟨_, step_reset h, noTree_resetOf s.params, rfl⟩

/-- Settles O16: FT is empty at reset, and there is neither a tree nor a code table. -/
theorem commandsAfterReset : Obligations.CommandsAfterReset := by
  intro p i
  cases i with
  | build => exact ⟨_, exec_build_of_emptyTable fun _ _ => rfl, rfl⟩
  | gen => exact ⟨_, exec_gen_without_tree rfl, rfl⟩
  | enc => exact ⟨_, exec_enc_without_codes rfl, rfl⟩
  | dec => exact ⟨_, exec_dec_without_tree rfl, rfl⟩
  | endSession => exact ⟨_, execEndSession_eq _, rfl⟩

/-! ## The first entry of a store that holds no value -/

theorem Store.mem_slots {α : Type} {st : Store α} {n : Nat} {slot : Option α} :
    slot ∈ st.slots n ↔ ∃ j, j < n ∧ st.read j = slot := by
  simp [Store.slots]

/-- Entry k is one of the first n, with the k entries before it. -/
theorem Store.slots_split {α : Type} (st : Store α) {n k : Nat} (hk : k < n) :
    st.slots n = st.slots k ++ st.read k :: (st.slots n).drop (k + 1) := by
  have hlen : k < (st.slots n).length := by rwa [Store.slots_length]
  have htake : (st.slots n).take k = st.slots k := by
    rw [Store.slots, ← List.map_take, List.take_range, Nat.min_eq_left hk.le, Store.slots]
  have hat : (st.slots n)[k] = st.read k := by simp [Store.slots]
  rw [← htake, ← hat, ← List.drop_eq_getElem_cons hlen, List.take_append_drop]

/-- Where entry k is the first without value, the entries before it are a sequence. -/
theorem Store.slots_eq_append_none {α : Type} {st : Store α} {n k : Nat} (hk : k < n) (hnone : st.read k = none)
    (hbefore : ∀ j, j < k → (st.read j).isSome = true) :
    ∃ (front : List α) (rest : List (Option α)), st.slots n = front.map some ++ none :: rest ∧
      front.length = k ∧ ∀ a ∈ front, ∃ j, j < k ∧ st.read j = some a := by
  have hvalues : st.slots k ∈ Set.range (List.map some) := by
    rw [Set.range_list_map]
    intro slot hslot
    obtain ⟨j, hj, rfl⟩ := Store.mem_slots.1 hslot
    exact ⟨_, Option.some_get (hbefore j hj)⟩
  obtain ⟨front, hfront⟩ := hvalues
  refine ⟨front, (st.slots n).drop (k + 1), ?_, by simpa using congrArg List.length hfront, fun a ha => ?_⟩
  · rw [hfront, ← hnone]
    exact st.slots_split hk
  · exact Store.mem_slots.1 (hfront ▸ List.mem_map_of_mem ha)

/-! ## The loops up to an element without value (R206) -/

/-- The lookup loop is refused at the first element without value when the symbols before it have codes. -/
theorem encodeSlots_append_none {s : State} {front : List Symbol} (rest : List (Option Symbol)) (i : Nat)
    (h : ∀ sym ∈ front, (s.codeIn sym).isSome = true) :
    encodeSlots s.ct i (front.map some ++ none :: rest) = .error (.noValue .si (i + front.length)) := by
  induction front generalizing i with
  | nil => rfl
  | cons sym front ih =>
    obtain ⟨hsym, hfront⟩ := List.forall_mem_cons.1 h
    obtain ⟨p, hp⟩ := Option.isSome_iff_exists.1 hsym
    obtain ⟨entry, hread, -⟩ := State.codeIn_eq_some.1 hp
    simp [encodeSlots, hread, ih (i + 1) hfront, Nat.add_assoc, Nat.add_comm 1]

section Decoder

variable {p : Params} {tm : Store TreeNode} {root nnodes cur : BitVec 9} {T : Tree} {cursor : Option Tree}
  (h : TreeShape p tm root nnodes) (hT : HoldsTree tm root T) (hcur : SameCursor tm root cur cursor)

include h hT hcur

/-- The loop of R130 is refused at the first digit without value when `decode` of the digits before it does not end
in NullTraversal. -/
theorem SameCursor.decodeSlots_append_none {front : List Digit} (rest : List (Option Digit)) (j : Nat)
    (hfront : decodeFrom T cursor front ≠ .error .nullTraversal) :
    decodeSlots tm root j cur (front.map some ++ none :: rest) = .error (.noValue .bs (j + front.length)) := by
  induction front generalizing j cur cursor with
  | nil => rfl
  | cons d front ih =>
    rw [List.map_cons, List.cons_append, decodeSlots, List.length_cons, Nat.add_comm front.length,
      ← Nat.add_assoc]
    rcases hcur.decodeStep_cases h hT d with
      ⟨hC, hstep⟩ | ⟨sym, w, hC, hstep⟩ | ⟨m, w, l, r, hC, hstep, hnext⟩
    · exact absurd (decodeFrom_missing hC) hfront
    · have hrest : decodeFrom T none front ≠ .error .nullTraversal := fun he =>
        hfront (by rw [decodeFrom_leaf hC, he]; rfl)
      simp only [hstep, ih .atRoot (j + 1) hrest]
    · rw [decodeFrom_node hC] at hfront
      simp only [hstep, ih hnext (j + 1) hfront]

end Decoder

/-- Settles O43: the codes carry ENC's loop to the element without value; a tree of two or more leaves is full, so
no digit before it ends DEC's loop. -/
theorem readsOfNoValueAreRefused : Obligations.ReadsOfNoValueAreRefused := by
  refine fun s k => ⟨fun hv hk hnone hcoded => ?enc, fun hs ht h2 hk hnone hbefore => ?dec⟩
  case enc =>
    obtain ⟨front, rest, hslots, hlen, hmem⟩ := Store.slots_eq_append_none hk hnone fun j hj => by
      obtain ⟨sym, hread, -⟩ := hcoded j hj
      simp [hread]
    have hcodes : ∀ sym ∈ front, (s.codeIn sym).isSome = true := fun sym hsym => by
      obtain ⟨j, hj, hread⟩ := hmem sym hsym
      obtain ⟨sym', hread', hcode⟩ := hcoded j hj
      rwa [Option.some.inj (hread.symm.trans hread')]
    have hloop := encodeSlots_append_none rest 0 hcodes
    rw [← hslots, hlen, Nat.zero_add] at hloop
    simp [execEnc, encodeInput, hv, State.symbolSlots, hloop]
  case dec =>
    have hshape := hs.tree ht
    obtain ⟨T, hT, -⟩ := hshape.exists_treeOf
    have hfull := hshape.full_of_holdsTree h2 hshape.root_ne_nil ⟨_, hT⟩
    obtain ⟨w, l, r, rfl⟩ := hshape.holdsTree_root ⟨_, hT⟩
    obtain ⟨front, rest, hslots, hlen, -⟩ := Store.slots_eq_append_none hk hnone hbefore
    have hloop := SameCursor.atRoot.decodeSlots_append_none hshape ⟨_, hT⟩ rest 0
      (decodeFrom_ne_nullTraversal hfull front ⟨w, l, r, rfl, hfull⟩)
    rw [← hslots, hlen, Nat.zero_add] at hloop
    simp [execDec, decodeInput, ht, State.bitSlots, hloop]

/-! ## What else can stop a loop (R206, R210) -/

/-- A loop over the elements of a space from position i ends early with a status, or because an element holds no
value. -/
def Abort.FromSlots {α : Type} (a : Abort) (sp : Space) (i : Nat) (slots : List (Option α)) : Prop :=
  (∃ e, a = .raise e) ∨ ∃ j, slots[j]? = some none ∧ a = .noValue sp (i + j)

theorem Abort.FromSlots.head {α : Type} (sp : Space) (i : Nat) (rest : List (Option α)) :
    (Abort.noValue sp i).FromSlots sp i (none :: rest) := .inr ⟨0, rfl, rfl⟩

theorem Abort.FromSlots.cons {α : Type} {a : Abort} {sp : Space} {i : Nat} {rest : List (Option α)}
    (h : a.FromSlots sp (i + 1) rest) (slot : Option α) : a.FromSlots sp i (slot :: rest) :=
  h.imp_right fun ⟨j, hj, ha⟩ => ⟨j + 1, hj, by rw [ha, Nat.add_assoc, Nat.add_comm 1]⟩

/-- A command whose loop ended so answers a next state, or is refused at an entry without value. -/
theorem finishCommand_cases_of_fromSlots {α : Type} {st : Store α} {n : Nat} {sp : Space} (emptied : State)
    {r : Except Abort State} (h : ∀ a, r = .error a → a.FromSlots sp 0 (st.slots n)) :
    (∃ t, finishCommand emptied r = .next t) ∨
      ∃ k, k < n ∧ st.read k = none ∧ finishCommand emptied r = .refused (.noValue sp k) := by
  cases r with
  | ok u => exact .inl ⟨_, finishCommand_ok emptied u⟩
  | error a =>
    rcases h a rfl with ⟨e, rfl⟩ | ⟨k, hk, rfl⟩
    · exact .inl ⟨_, finishCommand_raise emptied e⟩
    · rw [Store.slots_getElem?] at hk
      split_ifs at hk with hlt
      exact .inr ⟨k, hlt, Option.some.inj hk, by rw [finishCommand_noValue, Nat.zero_add]⟩

theorem encodeSlots_error {ct : Store CodeEntry} {slots : List (Option Symbol)} {i : Nat} {a : Abort}
    (h : encodeSlots ct i slots = .error a) : a.FromSlots .si i slots := by
  induction slots generalizing i with
  | nil => cases h
  | cons slot rest ih =>
    cases slot with
    | none =>
      cases h
      exact .head .si i rest
    | some sym =>
      rw [encodeSlots] at h
      split at h
      · cases h
        exact .inl ⟨_, rfl⟩
      · split at h
        · rename_i hrest
          cases h
          exact (ih hrest).cons _
        · cases h

/-- After a digit that the state machine accepts, what stops the loop of R130 stops it in the rest. -/
theorem decodeSlots_error_of_step {tm : Store TreeNode} {root cur m : NodeIndex} {d : Digit}
    {emitted : Option Symbol} {rest : List (Option Digit)} {j : Nat} {a : Abort}
    (hstep : decodeStep tm root cur d = .ok (m, emitted))
    (h : decodeSlots tm root j cur (some d :: rest) = .error a) :
    decodeSlots tm root (j + 1) m rest = .error a := by
  simp only [decodeSlots, hstep] at h
  split at h
  · rename_i hrest
    cases h
    exact hrest
  · cases h

/-- On a tree of the shape of R30 (b) no step of R126 meets an entry of TM without value. -/
theorem SameCursor.decodeSlots_error {p : Params} {tm : Store TreeNode} {root nnodes cur : BitVec 9} {T : Tree}
    {cursor : Option Tree} (hshape : TreeShape p tm root nnodes) (hT : HoldsTree tm root T)
    (hcur : SameCursor tm root cur cursor) {slots : List (Option Digit)} {j : Nat} {a : Abort}
    (h : decodeSlots tm root j cur slots = .error a) : a.FromSlots .bs j slots := by
  induction slots generalizing j cur cursor with
  | nil =>
    rw [decodeSlots] at h
    split at h <;> cases h
    exact .inl ⟨_, rfl⟩
  | cons slot rest ih =>
    cases slot with
    | none =>
      cases h
      exact .head .bs j rest
    | some d =>
      rcases hcur.decodeStep_cases hshape hT d with
        ⟨-, hstep⟩ | ⟨_, _, -, hstep⟩ | ⟨_, _, _, _, -, hstep, hnext⟩
      · rw [decodeSlots, hstep] at h
        cases h
        exact .inl ⟨_, rfl⟩
      · exact (ih .atRoot (decodeSlots_error_of_step hstep h)).cons _
      · exact (ih hnext (decodeSlots_error_of_step hstep h)).cons _

theorem encodeInput_error {s : State} {a : Abort} (h : encodeInput s = .error a) :
    a.FromSlots .si 0 s.symbolSlots := by
  rw [encodeInput] at h
  split_ifs at h with hv
  · cases h
    exact .inl ⟨_, rfl⟩
  · split at h
    · rename_i hloop
      cases h
      exact encodeSlots_error hloop
    · split_ifs at h
      cases h
      exact .inl ⟨_, rfl⟩

theorem decodeInput_error {s : State} {a : Abort} (hs : Inv s) (h : decodeInput s = .error a) :
    a.FromSlots .bs 0 s.bitSlots := by
  rw [decodeInput] at h
  split_ifs at h with ht
  · cases h
    exact .inl ⟨_, rfl⟩
  · have hshape := hs.tree (Bool.eq_true_of_not_eq_false ht)
    obtain ⟨T, hT, -⟩ := hshape.exists_treeOf
    split at h
    · rename_i hloop
      cases h
      exact SameCursor.atRoot.decodeSlots_error hshape ⟨_, hT⟩ hloop
    · split_ifs at h
      cases h
      exact .inl ⟨_, rfl⟩

/-- Settles O21: BUILD and END complete in every state; the shape of the tree bounds GEN's walk and keeps DEC's
cursor on entries that hold values; so only the elements of SI and BS are left to stop ENC and DEC. -/
theorem commandsCompleteOrReadNoValue : Obligations.CommandsCompleteOrReadNoValue := by
  intro s i hs
  cases i with
  | build =>
    rcases execBuild_cases s with ⟨-, h⟩ | ⟨-, -, h⟩ | ⟨-, -, h⟩ <;> exact .inl ⟨_, h⟩
  | gen =>
    cases ht : s.treeValid with
    | false => exact .inl ⟨_, exec_gen_without_tree ht⟩
    | true =>
      obtain ⟨codes, h, -⟩ := execGen_of_shape (hs.tree ht) ht
      exact .inl ⟨_, h⟩
  | enc =>
    exact (finishCommand_cases_of_fromSlots s.dropBits fun _ => encodeInput_error).imp_right
      fun h => .inl ⟨rfl, h⟩
  | dec =>
    exact (finishCommand_cases_of_fromSlots s.dropOutput fun _ => decodeInput_error hs).imp_right
      fun h => .inr ⟨rfl, h⟩
  | endSession => exact .inl ⟨_, execEndSession_eq s⟩

end Sys2Proof.Machine
end
